-- ==== Sys2Proof/Word.lean ====
section
/-! DEFINITION. The bit-vector and buffer types of the block: one host word, one character, one window offset, the
bit buffer, the result register and the character buffers (spec/00_scope.md R8, R10, R12). -/

namespace Sys2Proof

/-- A host word: "width in bits of every host access and every register" is 32 (R8). Bit 31 is the most significant,
bit 0 the least (R10). -/
abbrev Word := BitVec 32

/-- A character: "Characters are 8-bit codes" (R12). -/
abbrev Char8 := BitVec 8

/-- A byte offset into the 4096-byte host register window: 12 bits, 0x000..0xFFF (R50). -/
abbrev Offset := BitVec 12

/-- A sequence of NBITS = 112 bits (R8): BITS (R26) and WORK (R30). Index 0 of the sequence is its first and most
significant bit (R9), which is `BitVec.getMsbD · 0`. -/
abbrev BitBuf := BitVec 112

/-- The 128-bit result register's value (R8, R27). -/
abbrev Result := BitVec 128

/-- A buffer of INCAP = OUTCAP = 112 characters (R8): IN (R28) and OUT (R29). Index 0 is the first character. -/
abbrev CharBuf := Vector Char8 112

end Sys2Proof
end

