-- ==== Sys2Proof/Syntax.lean ====
section
/-! DEFINITION. The commands of the block: one constructor per row of spec/opcode_table.json (spec/30_encoding.md R84;
"The nine commands of rule R84 are the whole command set", R91). -/

namespace Sys2Proof

/-- One command. `len` is LEN, the number of input characters in IN[0..LEN), an unsigned count (R82); `abs` is ABS, the
input-absent flag (R83). BINSTORE and BIN2INT have no operand field (R85). -/
inductive Instr where
  | hex2bin (len : Nat)
  | binload (len : Nat)
  | binstore
  | bin2int
  | hex2int (len : Nat)
  | dfx (len : Nat)
  | crcchk (len : Nat)
  | crcenc (len : Nat)
  | icaochk (abs : Bool) (len : Nat)
  deriving DecidableEq, Repr

/-- The operation codes, one per row of the opcode map (R84). -/
inductive Op where
  | hex2bin | binload | binstore | bin2int | hex2int | dfx | crcchk | crcenc | icaochk
  deriving DecidableEq, Repr

end Sys2Proof
end

