-- ==== Sys2Proof/WellFormed.lean ====
section
/-! DEFINITION. Which commands the format C32 can carry (spec/30_encoding.md R81, R85). -/

namespace Sys2Proof

/-- LEN is an 8-bit field: "unsigned, 0..255" (R81). -/
def lenFits (len : Nat) : Bool := decide (len ≤ 255)

/-- A command is well-formed when its LEN fits the 8-bit field: "Where LEN is free, every value 0..255 is a legal encoding"
(R85). The other constraints of R85 (no LEN on BINSTORE and BIN2INT, ABS only on ICAOCHK, RSV = 0) hold of every `Instr`
by its type. -/
def Instr.wf : Instr → Bool
  | .hex2bin len => lenFits len
  | .binload len => lenFits len
  | .binstore => true
  | .bin2int => true
  | .hex2int len => lenFits len
  | .dfx len => lenFits len
  | .crcchk len => lenFits len
  | .crcenc len => lenFits len
  | .icaochk _ len => lenFits len

end Sys2Proof
end

