-- ==== Sys2Proof/Decode.lean ====
section
/-! DEFINITION. Decoding a command word to a command or a named rejection, total on all 2^32 words, and encoding a command
as its word; both from the field layout of spec/30_encoding.md R81 and the opcode table of R84. -/

namespace Sys2Proof

/-- OP, bits 7:0 (R81). -/
def opField (w : Word) : BitVec 8 := w.extractLsb' 0 8

/-- LEN, bits 15:8, "an unsigned character count with no scaling, offset or sign" (R82). -/
def lenField (w : Word) : Nat := (w.extractLsb' 8 8).toNat

/-- ABS, "the single bit w[16]" (R83). -/
def absField (w : Word) : Bool := w.getLsbD 16

/-- RSV, bits 31:17 (R81). -/
def rsvField (w : Word) : BitVec 15 := w.extractLsb' 17 15

/-- One row of the opcode table: a word w selects it when (w AND mask) = pattern (R84, which calls the pattern "match"). -/
structure Row where
  op : Op
  pattern : Word
  mask : Word
  deriving DecidableEq, Repr

/-- The match and mask columns of R84, in the table's order. -/
def opcodeTable : List Row :=
  [ ⟨.hex2bin,  0x00000001#32, 0xFFFF00FF#32⟩,
    ⟨.binload,  0x00000002#32, 0xFFFF00FF#32⟩,
    ⟨.binstore, 0x00000003#32, 0xFFFFFFFF#32⟩,
    ⟨.bin2int,  0x00000004#32, 0xFFFFFFFF#32⟩,
    ⟨.hex2int,  0x00000005#32, 0xFFFF00FF#32⟩,
    ⟨.dfx,      0x00000006#32, 0xFFFF00FF#32⟩,
    ⟨.crcchk,   0x00000007#32, 0xFFFF00FF#32⟩,
    ⟨.crcenc,   0x00000008#32, 0xFFFF00FF#32⟩,
    ⟨.icaochk,  0x00000009#32, 0xFFFE00FF#32⟩ ]

/-- "A word w selects a row when (w AND mask) = match" (R84). -/
def Row.selects (r : Row) (w : Word) : Bool := w &&& r.mask == r.pattern

/-- The command of an opcode with its fields (R84's "reads", LEN and ABS columns). -/
def assemble (op : Op) (len : Nat) (abs : Bool) : Instr :=
  match op with
  | .hex2bin => .hex2bin len
  | .binload => .binload len
  | .binstore => .binstore
  | .bin2int => .bin2int
  | .hex2int => .hex2int len
  | .dfx => .dfx len
  | .crcchk => .crcchk len
  | .crcenc => .crcenc len
  | .icaochk => .icaochk abs len

/-- Why a word is no command: the four kinds of illegal word that R86 lists. All raise IllegalCommand alike. -/
inductive Rejection where
  /-- "OP = 0x00, and OP = 0x0A to 0xFF, with any other field values". -/
  | unassignedOpcode
  /-- "any OP with RSV ≠ 0". -/
  | reservedBits
  /-- "OP in {0x01..0x08} with ABS = 1". -/
  | absNotAllowed
  /-- "OP in {0x03, 0x04} with LEN ≠ 0". -/
  | lenNotAllowed
  deriving DecidableEq, Repr

/-- The first item of R86's list that a word matching no row falls under. -/
def rejection (w : Word) : Rejection :=
  if opField w = 0x00#8 ∨ 0x0A#8 ≤ opField w then .unassignedOpcode
  else if rsvField w ≠ 0#15 then .reservedBits
  else if absField w then .absNotAllowed
  else .lenNotAllowed

/-- Decoding a command word: the row it selects, with LEN and ABS read as R82 and R83 say, or a rejection (R86). -/
def decode (w : Word) : Except Rejection Instr :=
  match opcodeTable.find? (fun r => r.selects w) with
  | some r => .ok (assemble r.op (lenField w) (absField w))
  | none => .error (rejection w)

/-- The operation code of each row (R84). -/
def Op.code : Op → BitVec 8
  | .hex2bin => 0x01#8
  | .binload => 0x02#8
  | .binstore => 0x03#8
  | .bin2int => 0x04#8
  | .hex2int => 0x05#8
  | .dfx => 0x06#8
  | .crcchk => 0x07#8
  | .crcenc => 0x08#8
  | .icaochk => 0x09#8

/-- The opcode of a command. -/
def Instr.op : Instr → Op
  | .hex2bin _ => .hex2bin
  | .binload _ => .binload
  | .binstore => .binstore
  | .bin2int => .bin2int
  | .hex2int _ => .hex2int
  | .dfx _ => .dfx
  | .crcchk _ => .crcchk
  | .crcenc _ => .crcenc
  | .icaochk _ _ => .icaochk

/-- LEN of a command, 0 where the command must have LEN = 0 (R85). -/
def Instr.len : Instr → Nat
  | .hex2bin len => len
  | .binload len => len
  | .binstore => 0
  | .bin2int => 0
  | .hex2int len => len
  | .dfx len => len
  | .crcchk len => len
  | .crcenc len => len
  | .icaochk _ len => len

/-- ABS of a command, 0 for every command except ICAOCHK (R85). -/
def Instr.abs : Instr → Bool
  | .hex2bin _ => false
  | .binload _ => false
  | .binstore => false
  | .bin2int => false
  | .hex2int _ => false
  | .dfx _ => false
  | .crcchk _ => false
  | .crcenc _ => false
  | .icaochk abs _ => abs

/-- The word with OP in bits 7:0, LEN in bits 15:8, ABS in bit 16 and RSV = 0, the layout of R81. -/
def fieldsWord (op : BitVec 8) (len : Nat) (abs : Bool) : Word :=
  op.setWidth 32 ||| ((BitVec.ofNat 8 len).setWidth 32 <<< 8) ||| ((BitVec.ofBool abs).setWidth 32 <<< 16)

/-- The command word of a command (R81, R84, R85). -/
def encode (i : Instr) : Word := fieldsWord i.op.code i.len i.abs

/-- An instruction's bits as the opcode table numbers them, as the word that is written to CMD: bit 0 is the least
significant bit, and there is no byte order ("A command word is one 32-bit value written to CMD and is decoded from its bits
directly", R59). Bits at `nbits` and above are 0. -/
def tableWord (nbits w : Nat) : Word := BitVec.ofNat 32 (w % 2 ^ nbits)

/-- The command the decoder reads from an instruction whose bits are w, none where it rejects the word. -/
def decodeTableWord (nbits w : Nat) : Option Instr :=
  match decode (tableWord nbits w) with
  | .ok i => some i
  | .error _ => none

end Sys2Proof
end

