-- ==== Sys2Proof/Config.lean ====
section
/-! DEFINITION. What the implementation fixes (the capacities and lengths of spec/00_scope.md R7 and R8) and the one
value the spec leaves unspecified (WORK between commands, R30), as a constant without a body. -/

namespace Sys2Proof.Config

/-- `NBITS`: "capacity of the bit buffer BITS, and the largest message bit length L any operation accepts" (R8). -/
@[simp] abbrev nbits : Nat := 112

/-- `HEXCAP`: "largest hex-character count accepted by the hex-reading commands" (R8). -/
@[simp] abbrev hexCap : Nat := 28

/-- `GLEN`: length of the generator polynomial's bit pattern (R7). -/
@[simp] abbrev genLen : Nat := 25

/-- `PBITS`: parity and remainder width (R7). -/
@[simp] abbrev parityBits : Nat := 24

/-- `DFBITS`: width of the Downlink Format field (R7). -/
@[simp] abbrev dfBits : Nat := 5

/-- `CRCMIN`: minimum bit length for a CRC operation (R7). -/
@[simp] abbrev crcMin : Nat := 25

/-- `DFMIN`: minimum bit length for DF extraction (R7). -/
@[simp] abbrev dfMin : Nat := 5

/-- The character count of an ICAO address, `ICAOBITS` = 24 bits, "6 hex characters" (R7). -/
@[simp] abbrev icaoChars : Nat := 6

/-- FREE VALUE (log 2): the n-th unspecified content of WORK. "Its content between commands is unobservable and is left
unspecified" (R30), so nothing can be proved of it. -/
opaque freeWork : Nat → BitBuf

end Sys2Proof.Config
end

