-- ==== Sys2Proof/Machine/State.lean ====
section
/-! DEFINITION. The machine's state as plain data, what can stop it, and the state after reset
(spec/10_state.md R20, R33; spec/20_memory.md R50, R51; spec/60_exceptions.md R210, R211). -/

namespace Sys2Proof.Machine

/-- STATUS.ERR, the outcome of the most recent command (R23, R210). "All four values are legal." -/
inductive ErrCode where
  /-- Code 0: the command completed. -/
  | ok
  /-- Code 1: an empty, over-long or malformed text, or BIN2INT with BLEN = 0. -/
  | invalidInput
  /-- Code 2: a valid hex text of fewer bits than the operation needs. -/
  | shortMessage
  /-- Code 3: a command word that matches no row of the opcode table. -/
  | illegalCommand
  deriving DecidableEq, Repr

/-- The access widths a host may use: "n in {1, 2, 4} bytes" (R51). -/
inductive Width where
  | byte | half | word
  deriving DecidableEq, Repr

/-- One host access of the register window (R51): MemRead(a, n) or MemWrite(a, n, v). Of the value of a byte or halfword
write only the low 8 or 16 bits are the access's; no rule reads them, because such a write is never accepted. -/
inductive Access where
  | read (off : Offset) (width : Width)
  | write (off : Offset) (width : Width) (value : Word)
  deriving DecidableEq, Repr

/-- What the outside does to the block (log 3): a host access (R51), or the platform's reset (R240), which may fall while an
access is in progress; that access is then the constructor's argument, "abandoned". -/
inductive HostEvent where
  | access (a : Access)
  | reset (inProgress : Option Access)
  deriving DecidableEq, Repr

/-- The port's response to an access: normal, or the bus error of R211. -/
inductive Response where
  | okay | busError
  deriving DecidableEq, Repr

/-- What the host receives for one access: the response, and for a read the data value (log 4). -/
structure Reply where
  response : Response
  data : Option Word
  deriving DecidableEq, Repr

/-- The window's registers and buffer words, each under its name in the register map (R52). -/
inductive Register where
  | gen | cmd | status | blen
  | res (k : Fin 4)
  | bitw (k : Fin 4)
  | inw (k : Fin 28)
  | outw (k : Fin 28)
  deriving DecidableEq, Repr

/-- The state. The elements of R20 that hold a value; GEN and BANDS are constants (C11 of spec/90_conflicts.md:
`genPoly`, `bands`) and CMD "holds no value" (R20, R22). Then the model's own three fields. -/
structure State where
  /-- STATUS.ERR (R23). -/
  err : ErrCode
  /-- BLEN.LEN, the number of valid bits in BITS (R25). -/
  blen : BitVec 8
  /-- BITS (R26); BITS[i] is `bits.getMsbD i`. -/
  bits : BitBuf
  /-- RES (R27). -/
  res : Result
  /-- IN (R28). -/
  inBuf : CharBuf
  /-- OUT (R29). -/
  outBuf : CharBuf
  /-- WORK (R30); WORK[i] is `work.getMsbD i`. Every step ends by making it a free value (log 2). -/
  work : BitBuf
  /-- The MODEL's own (log 2): how many free values of WORK have been taken. -/
  workSeq : Nat
  /-- The MODEL's own (log 3): what the host has issued and the block has not yet served, oldest first. -/
  pending : List HostEvent
  /-- The MODEL's own (log 4): the replies the port has given, newest first. -/
  replies : List Reply
  deriving DecidableEq, Repr

/-- Nothing stops this block: a command error is a code in STATUS.ERR (R213), a rejected access is an error reply (R211), and
`Execute` "is total on all 2^32 words" (R87). So there is no fault, and this type has no constructor. -/
inductive Fault : Type
  deriving DecidableEq, Repr

/-- Why a step would have no meaning. -/
inductive Refusal where
  /-- Raised by an arm of `exec` for a command that is not modelled yet; safe. No arm raises it: all nine commands are
  modelled. -/
  | notModelled (mnemonic : String)
  deriving DecidableEq, Repr

/-- The state right after reset (R33): STATUS, BLEN, BITS, RES, IN and OUT zero. WORK is "unspecified" there: 0 is a DESIGN
CHOICE (log 1) that the first step replaces by a free value. The model's own fields: no free value taken yet (log 2), no
access issued (log 3), no reply given (log 4). -/
def State.reset : State where
  err := .ok
  blen := 0#8
  bits := 0#112
  res := 0#128
  inBuf := Vector.replicate 112 0x00#8
  outBuf := Vector.replicate 112 0x00#8
  work := 0#112
  workSeq := 0
  pending := []
  replies := []

end Sys2Proof.Machine
end

