-- ==== Sys2Proof/Machine/Flags.lean ====
section
/-! DEFINITION. The block's only flag, STATUS.ERR: "It has no condition codes" (spec/10_state.md R23, R32;
spec/60_exceptions.md R210). -/

namespace Sys2Proof.Machine

/-- The code of each outcome as STATUS.ERR holds it (R210). -/
def ErrCode.code : ErrCode → BitVec 2
  | .ok => 0#2
  | .invalidInput => 1#2
  | .shortMessage => 2#2
  | .illegalCommand => 3#2

/-- STATUS as the host reads it: ERR in bits 1:0, bits 31:2 read 0 (R23). -/
def statusWord (e : ErrCode) : Word := e.code.setWidth 32

end Sys2Proof.Machine
end

