-- ==== Sys2Proof/Machine/Seq.lean ====
section
/-! DEFINITION. Bit sequences in the spec's numbering (spec/00_scope.md R9, R11): index 0 first and most significant. -/

namespace Sys2Proof.Machine

/-- The bits of a bit vector as a sequence, most significant first (R9). -/
def seqOf {n : Nat} (v : BitVec n) : List Bool := (List.range n).map v.getMsbD

/-- The n-bit vector whose sequence element i is `f i`, for i = 0..n-1 (R9). -/
def ofSeqFn (f : Nat → Bool) : (n : Nat) → BitVec n
  | 0 => 0#0
  | n + 1 => (ofSeqFn f n).concat (f n)

/-- `uint(S) = sum over i < len(S) of S[i] * 2^(len(S)-1-i)` (R11). -/
def uint : List Bool → Nat
  | [] => 0
  | b :: rest => b.toNat * 2 ^ rest.length + uint rest

/-- `S[a..b)`, "the subsequence of indices a to b-1" (R9). -/
def slice {α : Type} (seq : List α) (a b : Nat) : List α := (seq.take b).drop a

end Sys2Proof.Machine
end

