-- ==== Sys2Proof/Machine/Operands.lean ====
section
/-! DEFINITION. The operand forms: the text IN[0..LEN), its digits, the hex text of R102, the binary text of R111 and the
bit sequence BITS[0..BLEN) (spec/30_encoding.md R82; spec/40_convert.md R100, R101, R102). -/

namespace Sys2Proof.Machine

/-- The text IN[0..LEN) (R82). -/
def State.inText (s : State) (len : Nat) : List Char8 := s.inBuf.toList.take len

/-- The bit operand of BIN2INT and BINSTORE, BITS[0..BLEN) (R82). -/
def State.bitOperand (s : State) : List Bool := (seqOf s.bits).take s.blen.toNat

/-- `hexval(c)`, the value of a hex digit, none for INVALID (R100). -/
def hexval (c : Char8) : Option Nat :=
  let n := c.toNat
  if 0x30 ≤ n ∧ n ≤ 0x39 then some (n - 0x30)
  else if 0x41 ≤ n ∧ n ≤ 0x46 then some (n - 0x41 + 10)
  else if 0x61 ≤ n ∧ n ≤ 0x66 then some (n - 0x61 + 10)
  else none

/-- `binval(c)`, the value of a binary digit, none for INVALID (R101). -/
def binval (c : Char8) : Option Bool :=
  if c = 0x30#8 then some false
  else if c = 0x31#8 then some true
  else none

/-- The values of a text's digits under a digit valuation, none when some character is INVALID. -/
def digits {α : Type} (val : Char8 → Option α) : List Char8 → Option (List α)
  | [] => some []
  | c :: rest =>
    match val c, digits val rest with
    | some v, some vs => some (v :: vs)
    | _, _ => none

/-- The "4-bit binary expansion" of a digit value: bits 3, 2, 1, 0 in this order (R102). -/
def nibble (v : Nat) : List Bool := [v.testBit 3, v.testBit 2, v.testBit 1, v.testBit 0]

/-- `HexText(LEN)` (R102): the bit sequence of length 4·LEN, none where R102 raises InvalidInput (LEN = 0, LEN > HEXCAP, or a
character of IN[0..LEN) that is not a hex digit). -/
def State.hexText (s : State) (len : Nat) : Option (List Bool) :=
  if len = 0 then none
  else if Config.hexCap < len then none
  else
    match digits hexval (s.inText len) with
    | none => none
    | some vs => some (vs.flatMap nibble)

/-- The bit sequence of a binary text (R111), none where R111 raises InvalidInput (LEN = 0, LEN > 112, or a character of
IN[0..LEN) that is neither '0' nor '1'). -/
def State.binText (s : State) (len : Nat) : Option (List Bool) :=
  if len = 0 then none
  else if Config.nbits < len then none
  else digits binval (s.inText len)

/-- `sum over k of v[k] * 16^(n-1-k)`, the base-16 value of digit values, first digit most significant (R191). -/
def base16 : List Nat → Nat
  | [] => 0
  | v :: rest => v * 16 ^ rest.length + base16 rest

end Sys2Proof.Machine
end

