-- ==== Sys2Proof/Machine/Ops.lean ====
section
/-! DEFINITION. The named operations over the state: raising an error and completing (spec/30_encoding.md R87;
spec/60_exceptions.md R213), writing each register and buffer (spec/10_state.md R25 to R30), forgetting WORK, and the port's
replies. -/

namespace Sys2Proof.Machine

/-- ERROR ENTRY, the block's only exception (R213): "when a command raises, the block writes STATUS.ERR and nothing else". No
pc, no mode, no stack, no vector. There is no return beside it: "there is no return-from-error operation. The next command
overwrites STATUS.ERR with its own outcome" (R214). -/
def State.raise (s : State) (e : ErrCode) : State := { s with err := e }

/-- Completion of a command: "STATUS.ERR <- 0" (R87). -/
def State.complete (s : State) : State := { s with err := .ok }

/-- RES <- zext_128(v) (R27). "No result overflows its destination" (R13). -/
def State.setRes (s : State) (v : Nat) : State := { s with res := BitVec.ofNat 128 v }

/-- BITS <- the sequence S, every bit past its end cleared, and BLEN <- len(S) (R110, R111). -/
def State.setBits (s : State) (seq : List Bool) : State :=
  { s with bits := ofSeqFn (fun i => seq[i]?.getD false) 112, blen := BitVec.ofNat 8 seq.length }

/-- OUT <- 112 characters. Only BINSTORE does this (R29). -/
def State.setOut (s : State) (buf : CharBuf) : State := { s with outBuf := buf }

/-- WORK <- w. Only the CRC commands do this (R20, C9 of spec/90_conflicts.md). -/
def State.setWork (s : State) (w : BitBuf) : State := { s with work := w }

/-- Four characters as a word: character j in bits 8j+7:8j, so the earlier character "is the least significant byte"
(R56). -/
def packChars (c0 c1 c2 c3 : Char8) : Word :=
  c0.setWidth 32 ||| (c1.setWidth 32 <<< 8) ||| (c2.setWidth 32 <<< 16) ||| (c3.setWidth 32 <<< 24)

/-- A character buffer with word k replaced: character 4k+j is `v[8j+7:8j]`, j = 0..3, "little-endian within a word" (R56). -/
def setCharWord (buf : CharBuf) (k : Fin 28) (v : Word) : CharBuf :=
  (((buf.set (4 * k.val) (v.extractLsb' 0 8) (by omega)).set (4 * k.val + 1) (v.extractLsb' 8 8) (by omega)).set
    (4 * k.val + 2) (v.extractLsb' 16 8) (by omega)).set (4 * k.val + 3) (v.extractLsb' 24 8) (by omega)

/-- `IN[4k+j] <- v[8j+7:8j]` for j = 0..3 (R54). -/
def State.setInWord (s : State) (k : Fin 28) (v : Word) : State := { s with inBuf := setCharWord s.inBuf k v }

/-- WORK becomes a free value (log 2): "its content after any command is unspecified and unobservable" (R87), and between
commands the block "holds its state unchanged, except WORK, which is unspecified" (R221). -/
def State.forgetWork (s : State) : State :=
  { s with work := Config.freeWork s.workSeq, workSeq := s.workSeq + 1 }

/-- The port gives the host a reply. -/
def State.answer (s : State) (r : Reply) : State := { s with replies := r :: s.replies }

/-- RESET (R240): "sets every state element to the reset value of 10_state.md rule R33"; WORK, unspecified there, is forgotten
when the step ends. The model's own fields stay: the accesses the host issued later, the replies it already has, and the
counter of free values. -/
def State.resetBlock (s : State) : State :=
  { State.reset with workSeq := s.workSeq, pending := s.pending, replies := s.replies }

/-- Goes on with f where an outcome is a next state. -/
def onNext (o : Host.Outcome State Fault Refusal) (f : State → State) : Host.Outcome State Fault Refusal :=
  match o with
  | .next s => .next (f s)
  | .fault r => .fault r
  | .refused r => .refused r

end Sys2Proof.Machine
end

