-- ==== Sys2Proof/Machine/Convert.lean ====
section
/-! DEFINITION. The representation converter's commands: HEX2BIN, BINLOAD, BINSTORE, BIN2INT, HEX2INT
(spec/40_convert.md R110 to R114). -/

namespace Sys2Proof.Machine

/-- HEX2BIN (R110): BITS <- HexText(LEN), BLEN <- 4·LEN. -/
def execHex2bin (len : Nat) (s : State) : Host.Outcome State Fault Refusal :=
  match s.hexText len with
  | none => .next (s.raise .invalidInput)
  | some seq => .next (s.setBits seq).complete

/-- BINLOAD (R111): BITS <- the binary text, BLEN <- LEN. -/
def execBinload (len : Nat) (s : State) : Host.Outcome State Fault Refusal :=
  match s.binText len with
  | none => .next (s.raise .invalidInput)
  | some seq => .next (s.setBits seq).complete

/-- `0x30 + BITS[k]` for k < BLEN, 0x00 beyond (R112). -/
def storedChar (s : State) (k : Nat) : Char8 :=
  if k < s.blen.toNat then 0x30#8 + (BitVec.ofBool (s.bits.getMsbD k)).setWidth 8 else 0x00#8

/-- `for k in 0 .. 111: OUT[k] <- ...` (R112). -/
def storedText (s : State) : CharBuf := Vector.ofFn fun k => storedChar s k.val

/-- BINSTORE (R112): OUT <- the bits of BITS[0..BLEN) as text. It raises nothing. -/
def execBinstore (s : State) : Host.Outcome State Fault Refusal :=
  .next (s.setOut (storedText s)).complete

/-- BIN2INT (R113): RES <- uint(BITS[0..BLEN)), InvalidInput when BLEN = 0. -/
def execBin2int (s : State) : Host.Outcome State Fault Refusal :=
  if s.blen = 0#8 then .next (s.raise .invalidInput)
  else .next (s.setRes (uint s.bitOperand)).complete

/-- HEX2INT (R114): RES <- uint(HexText(LEN)). -/
def execHex2int (len : Nat) (s : State) : Host.Outcome State Fault Refusal :=
  match s.hexText len with
  | none => .next (s.raise .invalidInput)
  | some seq => .next (s.setRes (uint seq)).complete

end Sys2Proof.Machine
end

