-- ==== Sys2Proof/Machine/Crc.lean ====
section
/-! DEFINITION. The CRC engine: the generator, the bit-serial division and the commands CRCCHK and CRCENC
(spec/42_crc.md R160 to R164). -/

namespace Sys2Proof.Machine

/-- The generator G (R160), a constant of the hardware (GEN of R20, C11). G[j] is `genPoly.getMsbD j`: "POLY[24] is G[0] and
POLY[0] is G[24]" (R21). -/
def genPoly : BitVec 25 := 0b1111111111111010000001001#25

/-- GEN as the host reads it: POLY in bits 24:0, bits 31:25 hard-wired to 0 (R21). -/
def genWord : Word := genPoly.setWidth 32

/-- `WORK[i + j] <- WORK[i + j] XOR G[j]` for j = 0..24, the "25-bit window WORK[i..i+25)" (R161). The shift puts G[j] at
sequence index i + j. -/
def xorWindow (w : BitBuf) (i : Nat) : BitBuf :=
  w ^^^ (genPoly.setWidth 112 <<< (Config.nbits - Config.genLen - i))

/-- One iteration of Divide: skip when WORK[i] = 0 (R161). -/
def divideStep (w : BitBuf) (i : Nat) : BitBuf := if w.getMsbD i then xorWindow w i else w

/-- `Divide(WORK, L)`: L-24 iterations, i = 0..L-25 ascending, each on the WORK the one before left (R161). -/
def divide (w : BitBuf) (L : Nat) : BitBuf := (List.range (L - Config.parityBits)).foldl divideStep w

/-- `WORK[0..L) <- S`: bits past the end of S keep what they held (R163). -/
def loadPrefix (w : BitBuf) (seq : List Bool) : BitBuf := ofSeqFn (fun i => seq[i]?.getD (w.getMsbD i)) 112

/-- `for i in a .. b-1: WORK[i] <- 0` (R164). -/
def clearRange (w : BitBuf) (a b : Nat) : BitBuf := ofSeqFn (fun i => !(decide (a ≤ i ∧ i < b)) && w.getMsbD i) 112

/-- `uint(WORK[L-24..L))`, the remainder, first remainder bit most significant (R162). -/
def remainder (w : BitBuf) (L : Nat) : Nat := uint (slice (seqOf w) (L - Config.parityBits) L)

/-- The end of both CRC commands: divide, and RES <- the remainder (R163, R164). -/
def State.finishCrc (s : State) (w : BitBuf) (L : Nat) : State :=
  ((s.setWork (divide w L)).setRes (remainder (divide w L) L)).complete

/-- CRCCHK (R163): the remainder of the whole message. -/
def execCrcchk (len : Nat) (s : State) : Host.Outcome State Fault Refusal :=
  match s.hexText len with
  | none => .next (s.raise .invalidInput)
  | some seq =>
    if 4 * len < Config.crcMin then .next (s.raise .shortMessage)
    else .next (s.finishCrc (loadPrefix s.work seq) (4 * len))

/-- CRCENC (R164): the same with the trailing 24 bits forced to zero before the division. -/
def execCrcenc (len : Nat) (s : State) : Host.Outcome State Fault Refusal :=
  match s.hexText len with
  | none => .next (s.raise .invalidInput)
  | some seq =>
    if 4 * len < Config.crcMin then .next (s.raise .shortMessage)
    else .next (s.finishCrc (clearRange (loadPrefix s.work seq) (4 * len - Config.parityBits) (4 * len)) (4 * len))

end Sys2Proof.Machine
end

