-- ==== Sys2Proof/Machine/FieldExtract.lean ====
section
/-! DEFINITION. The Downlink Format field extractor: DFX (spec/41_field_extract.md R140). -/

namespace Sys2Proof.Machine

/-- DFX (R140): RES <- uint(S[0..5)) of S = HexText(LEN); ShortMessage when 4·LEN < 5, after every InvalidInput check. -/
def execDfx (len : Nat) (s : State) : Host.Outcome State Fault Refusal :=
  match s.hexText len with
  | none => .next (s.raise .invalidInput)
  | some seq =>
    if 4 * len < Config.dfMin then .next (s.raise .shortMessage)
    else .next (s.setRes (uint (slice seq 0 Config.dfBits))).complete

end Sys2Proof.Machine
end

