-- ==== Sys2Proof/Machine/Icao.lean ====
section
/-! DEFINITION. The ICAO address classifier: the exclusion bands and ICAOCHK (spec/43_icao.md R190, R191). -/

namespace Sys2Proof.Machine

/-- BANDS (R190), a constant of the hardware (R20, R31, C11): nine open intervals (lo, hi) of 24-bit addresses, "reproduced as
given". The region names do not affect behaviour (R192). -/
def bands : List (Nat × Nat) :=
  [ (0x200000, 0x27FFFF),   -- 1 AFI
    (0x280000, 0x28FFFF),   -- 2 SAM
    (0x500000, 0x5FFFFF),   -- 3 EUR/NAT
    (0x600000, 0x67FFFF),   -- 4 MID
    (0x680000, 0x6F0000),   -- 5 ASIA (the upper bound as given, not 0x6FFFFF)
    (0x900000, 0x9FFFFF),   -- 6 NAM/PAC
    (0xB00000, 0xBFFFFF),   -- 7 CAR
    (0xD00000, 0xDFFFFF),   -- 8 reserved (future)
    (0xF00000, 0xFFFFFF) ]  -- 9 reserved (future)

/-- "some band (lo, hi) of BANDS has lo < a and a < hi": both comparisons strict (R191, R193). -/
def excluded (a : Nat) : Bool := bands.any fun band => decide (band.1 < a ∧ a < band.2)

/-- The classification r of R191: 0 for an absent input, a length other than 6, a character that is no hex digit, or an
address inside a band; else 1. -/
def State.icaoAssigned (s : State) (abs : Bool) (len : Nat) : Bool :=
  if abs then false
  else if len ≠ Config.icaoChars then false
  else
    match digits hexval (s.inText Config.icaoChars) with
    | none => false
    | some vs => !(excluded (base16 vs))

/-- ICAOCHK (R191): RES <- 1 (assigned) or 0. It raises nothing. -/
def execIcaochk (abs : Bool) (len : Nat) (s : State) : Host.Outcome State Fault Refusal :=
  .next (s.setRes (s.icaoAssigned abs len).toNat).complete

end Sys2Proof.Machine
end

