-- ==== Sys2Proof/Machine/Dispatch.lean ====
section
/-! DEFINITION. One arm per command: each calls its meaning (spec/30_encoding.md R84, R87). -/

namespace Sys2Proof.Machine

def exec (i : Instr) (s : State) : Host.Outcome State Fault Refusal :=
  match i with
  -- representation converter, R110 to R114
  | .hex2bin len => Sys2Proof.Machine.execHex2bin len s
  | .binload len => Sys2Proof.Machine.execBinload len s
  | .binstore => Sys2Proof.Machine.execBinstore s
  | .bin2int => Sys2Proof.Machine.execBin2int s
  | .hex2int len => Sys2Proof.Machine.execHex2int len s
  -- field extractor, R140
  | .dfx len => Sys2Proof.Machine.execDfx len s
  -- CRC engine, R163 and R164
  | .crcchk len => Sys2Proof.Machine.execCrcchk len s
  | .crcenc len => Sys2Proof.Machine.execCrcenc len s
  -- ICAO address classifier, R191
  | .icaochk abs len => Sys2Proof.Machine.execIcaochk abs len s

end Sys2Proof.Machine
end

