-- ==== Sys2Proof/Machine/HostPort.lean ====
section
/-! DEFINITION. The host register window: the register map, which accesses are accepted, and what each register reads
(spec/20_memory.md R51 to R58). -/

namespace Sys2Proof.Machine

/-- The mapped offset of each register (R52). -/
def Register.offset : Register → Offset
  | .gen => 0x000#12
  | .cmd => 0x004#12
  | .status => 0x008#12
  | .blen => 0x00C#12
  | .res k => BitVec.ofNat 12 (0x010 + 4 * k.val)
  | .bitw k => BitVec.ofNat 12 (0x020 + 4 * k.val)
  | .inw k => BitVec.ofNat 12 (0x100 + 4 * k.val)
  | .outw k => BitVec.ofNat 12 (0x200 + 4 * k.val)

/-- The register an offset names, none where it is misaligned or unmapped (R51, R52). -/
def registerAt (off : Offset) : Option Register :=
  let a := off.toNat
  if a % 4 ≠ 0 then none
  else if a = 0x000 then some .gen
  else if a = 0x004 then some .cmd
  else if a = 0x008 then some .status
  else if a = 0x00C then some .blen
  else if h : 0x010 ≤ a ∧ a < 0x020 then some (.res ⟨(a - 0x010) / 4, by omega⟩)
  else if h : 0x020 ≤ a ∧ a < 0x030 then some (.bitw ⟨(a - 0x020) / 4, by omega⟩)
  else if h : 0x100 ≤ a ∧ a < 0x170 then some (.inw ⟨(a - 0x100) / 4, by omega⟩)
  else if h : 0x200 ≤ a ∧ a < 0x270 then some (.outw ⟨(a - 0x200) / 4, by omega⟩)
  else none

/-- "The block accepts an access only when n = 4 and a mod 4 = 0 and a names a mapped register" (R51): the register then, none
where the access gets the bus error response. -/
def accepted (off : Offset) (width : Width) : Option Register :=
  match width with
  | .word => registerAt off
  | .half => none
  | .byte => none

/-- Character buffer word k: `buf[4k+j]` in bits 8j+7:8j (R56). -/
def charWord (buf : CharBuf) (k : Fin 28) : Word :=
  packChars (buf[4 * k.val]'(by omega)) (buf[4 * k.val + 1]'(by omega)) (buf[4 * k.val + 2]'(by omega))
    (buf[4 * k.val + 3]'(by omega))

/-- BITWk: `BITS[i]` in bit 31 - (i mod 32) of word i div 32, and 0 where BITS has no element (R57). -/
def bitWord (bits : BitBuf) (k : Fin 4) : Word := ofSeqFn (fun j => bits.getMsbD (32 * k.val + j)) 32

/-- `RESk = RES[32k+31 : 32k]` (R58). -/
def resWord (res : Result) (k : Fin 4) : Word := res.extractLsb' (32 * k.val) 32

/-- The value a read of a mapped register returns (R53): GEN hard-wired (R21), CMD 0 (R22), STATUS (R23), BLEN with bits 31:8
zero (R25), and the buffer words. -/
def readRegister (r : Register) (s : State) : Word :=
  match r with
  | .gen => genWord
  | .cmd => 0#32
  | .status => statusWord s.err
  | .blen => s.blen.setWidth 32
  | .res k => resWord s.res k
  | .bitw k => bitWord s.bits k
  | .inw k => charWord s.inBuf k
  | .outw k => charWord s.outBuf k

end Sys2Proof.Machine
end

