-- ==== Sys2Proof/Machine/Execute.lean ====
section
/-! DEFINITION. Executing a command word and serving one host event (spec/30_encoding.md R87; spec/20_memory.md R51 to R55,
R61; spec/70_reset_and_hazards.md R240). -/

namespace Sys2Proof.Machine

/-- `Execute(w)` (R87): the command of the row w selects, or IllegalCommand. -/
def execute (w : Word) (s : State) : Host.Outcome State Fault Refusal :=
  match decode w with
  | .ok i => exec i s
  | .error _ => .next (s.raise .illegalCommand)

/-- What an accepted 32-bit write does: CMD executes the word (R22), INWk stores four characters (R54), every read-only
register ignores it (R55). -/
def writeRegister (r : Register) (v : Word) (s : State) : Host.Outcome State Fault Refusal :=
  match r with
  | .cmd => execute v s
  | .inw k => .next (s.setInWord k v)
  | .gen => .next s
  | .status => .next s
  | .blen => .next s
  | .res _ => .next s
  | .bitw _ => .next s
  | .outw _ => .next s

/-- One host access and its reply (R51, R53, R55, R211). A command "is fully performed, including its STATUS write, before that
write completes" (R61): the reply is given last. -/
def serveAccess (a : Access) (s : State) : Host.Outcome State Fault Refusal :=
  match a with
  | .read off width =>
    match accepted off width with
    | some r => .next (s.answer ⟨.okay, some (readRegister r s)⟩)
    | none => .next (s.answer ⟨.busError, some 0#32⟩)
  | .write off width v =>
    match accepted off width with
    | some r => onNext (writeRegister r v s) fun t => t.answer ⟨.okay, none⟩
    | none => .next (s.answer ⟨.busError, none⟩)

/-- One event: an access, or reset. "A command or host access in progress when reset is asserted is abandoned, and its effects
are replaced by the reset values" (R240): it has no effect and gets no reply. -/
def serve (e : HostEvent) (s : State) : Host.Outcome State Fault Refusal :=
  match e with
  | .access a => serveAccess a s
  | .reset _ => .next s.resetBlock

end Sys2Proof.Machine
end

