-- ==== Sys2Proof/Machine/Step.lean ====
section
/-! DEFINITION. One step of the machine: it serves the oldest pending host event, completely (spec/20_memory.md R60, R61), and
ends with WORK unspecified (spec/10_state.md R30). -/

namespace Sys2Proof.Machine

/-- One step. With nothing pending the block is idle and "holds its state unchanged, except WORK" (R221, R241); else the oldest
event is served, "in the order the host issues them" (R61). -/
def step (s : State) : Host.Outcome State Fault Refusal :=
  match s.pending with
  | [] => .next s.forgetWork
  | e :: rest => onNext (serve e { s with pending := rest }) State.forgetWork

/-- The state in which the very next step runs the command whose bits are w: the host's 32-bit write of that word to CMD is the
oldest pending event. The block fetches nothing (R59), so this is how a command comes to run (log 3). -/
def State.withFetchWord (s : State) (nbits w : Nat) : State :=
  { s with pending := .access (.write Register.cmd.offset .word (tableWord nbits w)) :: s.pending }

end Sys2Proof.Machine
end

