-- ==== Sys2Proof/Machine/HostProgram.lean ====
section
/-! DEFINITION. The host program notation, as statements that expand to host accesses (spec/30_encoding.md R89, R90). The block
has no toolchain; comments and register names in place of offsets are matters of text. -/

namespace Sys2Proof.Machine

/-- One statement of a host program (R89, R90). -/
inductive Stmt where
  /-- `SW off, imm32`. -/
  | sw (off : Offset) (imm : Word)
  /-- `LW off`. -/
  | lw (off : Offset)
  /-- A command mnemonic with its operands; `ICAOCHK ABSENT` is `icaochk true 0`. -/
  | command (i : Instr)
  /-- `.word imm32`, "the only way to spell an illegal command". -/
  | raw (imm : Word)
  /-- `LOADSTR "text"`, text of at most 112 characters. -/
  | loadstr (text : List Char8)
  deriving DecidableEq, Repr

/-- Characters 4k..4k+3 of a text packed by R56, "positions past the end of the text are filled with 0x00" (R90). -/
def packWord (text : List Char8) (k : Nat) : Word :=
  packChars (text[4 * k]?.getD 0x00#8) (text[4 * k + 1]?.getD 0x00#8) (text[4 * k + 2]?.getD 0x00#8)
    (text[4 * k + 3]?.getD 0x00#8)

/-- A 32-bit host store. -/
def storeWord (off : Offset) (v : Word) : HostEvent := .access (.write off .word v)

/-- What a statement expands to (R89, R90): command mnemonics and `.word` to one `SW 0x004, w`, LOADSTR to `SW INWk, v_k` for
k = 0 .. ceil(len/4)-1. -/
def Stmt.expand : Stmt → List HostEvent
  | .sw off imm => [storeWord off imm]
  | .lw off => [.access (.read off .word)]
  | .command i => [storeWord 0x004#12 (encode i)]
  | .raw imm => [storeWord 0x004#12 imm]
  | .loadstr text =>
    (List.range ((text.length + 3) / 4)).map fun k => storeWord (BitVec.ofNat 12 (0x100 + 4 * k)) (packWord text k)

end Sys2Proof.Machine
end

