-- ==== Sys2Proof/Safety.lean ====
section
/-! DEFINITION. What counts as a good state and a good step of this block, in the terms claims use
(spec/00_scope.md R13; spec/10_state.md R25, R26, R29; spec/30_encoding.md R87). -/

namespace Sys2Proof.Machine

/-- "Only values 0..112 ever occur" in BLEN (R25). -/
abbrev blenInRange (s : State) : Prop := s.blen.toNat ≤ 112

/-- "Bits at index BLEN and above are always 0" (R26). -/
abbrev bitsClearPastBlen (s : State) : Prop := ∀ i : Fin 112, s.blen.toNat ≤ i.val → s.bits.getMsbD i.val = false

/-- "The widest value is uint of NBITS = 112 bits" (R13): RES is below 2^112. -/
abbrev resInRange (s : State) : Prop := s.res.toNat < 2 ^ 112

/-- OUT holds a text of '0' and '1' with 0x00 behind it, as BINSTORE and reset leave it (R29, R33). -/
abbrev outIsText (s : State) : Prop :=
  ∃ n : Fin 113, ∀ k : Fin 112,
    if k.val < n.val then s.outBuf[k] = 0x30#8 ∨ s.outBuf[k] = 0x31#8 else s.outBuf[k] = 0x00#8

/-- The invariant of the block: what the spec says always holds of its registers. -/
abbrev Inv (s : State) : Prop := blenInRange s ∧ bitsClearPastBlen s ∧ resInRange s ∧ outIsText s

/-- A safe step: the machine goes on, as it always does (`Execute` "is total on all 2^32 words", R87). -/
abbrev Completes (o : Host.Outcome State Fault Refusal) : Prop := ∃ t, o = .next t

end Sys2Proof.Machine
end

