-- ==== Sys2Proof/Certificates/Slice0/Obligations.lean ====
section
/-! DEFINITION. The statements for the provers, from the numbered rules of spec/, and the few words they are written in: what a
text in IN is, its bits, and the bit-serial division as the spec's own pseudocode has it. -/

namespace Sys2Proof.Machine.Spec

/-- IN[0..LEN) is a hex text that R102 accepts: LEN in 1..28 and every character a hex digit. -/
abbrev HexTextIn (s : State) (len : Nat) : Prop :=
  1 ≤ len ∧ len ≤ 28 ∧ ∀ k : Fin 112, k.val < len → (hexval s.inBuf[k]).isSome

/-- IN[0..LEN) is a text for which R102 raises InvalidInput. -/
abbrev NoHexTextIn (s : State) (len : Nat) : Prop :=
  len = 0 ∨ 28 < len ∨ ∃ k : Fin 112, k.val < len ∧ hexval s.inBuf[k] = none

/-- IN[0..LEN) is a binary text that R111 accepts: LEN in 1..112 and every character '0' or '1'. -/
abbrev BinTextIn (s : State) (len : Nat) : Prop :=
  1 ≤ len ∧ len ≤ 112 ∧ ∀ k : Fin 112, k.val < len → s.inBuf[k] = 0x30#8 ∨ s.inBuf[k] = 0x31#8

/-- IN[0..LEN) is a text for which R111 raises InvalidInput. -/
abbrev NoBinTextIn (s : State) (len : Nat) : Prop :=
  len = 0 ∨ 112 < len ∨ ∃ k : Fin 112, k.val < len ∧ s.inBuf[k] ≠ 0x30#8 ∧ s.inBuf[k] ≠ 0x31#8

/-- `hexval(IN[k])`, where it is a digit. -/
def digitAt (s : State) (k : Nat) : Nat := ((s.inBuf[k]?).bind hexval).getD 0

/-- Element i of the expanded hex text: `S[4k + j] = hexval(IN[k])[3 - j]` (R102). -/
def hexBit (s : State) (i : Nat) : Bool := (digitAt s (i / 4)).testBit (3 - i % 4)

/-- `uint` of the sequence f(0), ..., f(n-1), as the sum of R11. -/
def uintOf (n : Nat) (f : Nat → Bool) : Nat := ∑ i ∈ Finset.range n, (f i).toNat * 2 ^ (n - 1 - i)

/-- The base-16 number of the digits of IN[a..a+n), first digit most significant. -/
def hexNumber (s : State) (a n : Nat) : Nat := ∑ k ∈ Finset.range n, digitAt s (a + k) * 16 ^ (n - 1 - k)

/-- `G[j]`, the pattern 1111111111111010000001001 of R160. -/
def G (j : Nat) : Bool := [1,1,1,1,1,1,1,1,1,1,1,1,1,0,1,0,0,0,0,0,0,1,0,0,1][j]? == some 1

/-- WORK after the first n iterations of Divide on the array f, bit by bit as R161's pseudocode does it. -/
def divided (f : Nat → Bool) : Nat → Nat → Bool
  | 0 => f
  | i + 1 => fun k =>
    if divided f i i && decide (i ≤ k) && decide (k ≤ i + 24) then divided f i k ^^ G (k - i) else divided f i k

/-- The remainder of the division of a sequence of length L, first remainder bit most significant (R162). -/
def remainderOf (f : Nat → Bool) (L : Nat) : Nat := uintOf 24 fun j => divided f (L - 24) (L - 24 + j)

/-- The bands of R190, as the rule's table has them. -/
def bandTable : List (Nat × Nat) :=
  [(0x200000, 0x27FFFF), (0x280000, 0x28FFFF), (0x500000, 0x5FFFFF), (0x600000, 0x67FFFF), (0x680000, 0x6F0000),
   (0x900000, 0x9FFFFF), (0xB00000, 0xBFFFFF), (0xD00000, 0xDFFFFF), (0xF00000, 0xFFFFFF)]

/-- The mapped offsets of R52. -/
abbrev Mapped (a : Nat) : Prop :=
  a % 4 = 0 ∧ (a ≤ 0x02C ∨ (0x100 ≤ a ∧ a ≤ 0x16C) ∨ (0x200 ≤ a ∧ a ≤ 0x26C))

/-- A state whose oldest pending event is e. -/
abbrev facing (s : State) (e : HostEvent) (rest : List HostEvent) : State := { s with pending := e :: rest }

/-- The end of a step (the MODEL's own form, log 2): WORK is the next free value. -/
abbrev workForgotten (t : State) : State := { t with work := Config.freeWork t.workSeq, workSeq := t.workSeq + 1 }

/-- The end of a step that served an access (the MODEL's own form, log 2 and log 4): the reply is recorded. -/
abbrev replied (t : State) (r : Reply) : State := workForgotten { t with replies := r :: t.replies }

/-- Two states that differ at most in WORK (and in the model's counter of its free values). -/
abbrev SameButWork (s t : State) : Prop := t = { s with work := t.work, workSeq := t.workSeq }

/-- When a command raises InvalidInput (R210's second row, command by command). -/
def invalidCause (i : Instr) (s : State) : Prop :=
  match i with
  | .hex2bin len => NoHexTextIn s len
  | .binload len => NoBinTextIn s len
  | .binstore => False
  | .bin2int => s.blen = 0#8
  | .hex2int len => NoHexTextIn s len
  | .dfx len => NoHexTextIn s len
  | .crcchk len => NoHexTextIn s len
  | .crcenc len => NoHexTextIn s len
  | .icaochk _ _ => False

/-- When a command raises ShortMessage (R210's third row, command by command). -/
def shortCause (i : Instr) (s : State) : Prop :=
  match i with
  | .hex2bin _ => False
  | .binload _ => False
  | .binstore => False
  | .bin2int => False
  | .hex2int _ => False
  | .dfx len => HexTextIn s len ∧ len = 1
  | .crcchk len => HexTextIn s len ∧ len ≤ 6
  | .crcenc len => HexTextIn s len ∧ len ≤ 6
  | .icaochk _ _ => False

end Sys2Proof.Machine.Spec

open Sys2Proof Sys2Proof.Machine Sys2Proof.Machine.Spec

/-! ## Encoding -/

/-- Decoding the word of a well-formed command gives the command back (R81, R84, R85). -/
def Obligations.DecodeOfEncodeIsTheCommand : Prop :=
  ∀ i : Instr, i.wf = true → decode (encode i) = .ok i

/-- A word that decodes to a command is that command's word, and the command is well-formed: no word has two spellings and no
bit is dropped (R84, R85). -/
def Obligations.EncodeOfDecodeIsTheWord : Prop :=
  ∀ (w : Word) (i : Instr), decode w = .ok i → i.wf = true ∧ encode i = w

/-- Words of spec/95_test_vectors.md L2.1 and L2.8, each with the command it stands for. -/
def Obligations.CommandWordsOfTheTestVectorsDecode : Prop :=
  decode 0x00001C01#32 = .ok (.hex2bin 28) ∧ decode 0x00000502#32 = .ok (.binload 5) ∧
  decode 0x00000003#32 = .ok .binstore ∧ decode 0x00000004#32 = .ok .bin2int ∧
  decode 0x00000605#32 = .ok (.hex2int 6) ∧ decode 0x00001C06#32 = .ok (.dfx 28) ∧
  decode 0x00001C07#32 = .ok (.crcchk 28) ∧ decode 0x00001C08#32 = .ok (.crcenc 28) ∧
  decode 0x00000609#32 = .ok (.icaochk false 6) ∧ decode 0x00010009#32 = .ok (.icaochk true 0) ∧
  decode 0x0000FF09#32 = .ok (.icaochk false 255) ∧ decode 0x00001D01#32 = .ok (.hex2bin 29)

/-- "At most one row matches any word" (R84). -/
def Obligations.AtMostOneRowSelectsAWord : Prop :=
  ∀ (w : Word) (r r' : Row), r ∈ opcodeTable → r' ∈ opcodeTable → r.selects w = true → r'.selects w = true → r = r'

/-- R86: which words are illegal, and that an illegal word's only effect is STATUS.ERR <- 3. -/
def Obligations.IllegalWordsOnlySetIllegalCommand : Prop :=
  ∀ w : Word,
    ((∃ e, decode w = .error e) ↔
      (w.extractLsb' 0 8 = 0x00#8 ∨ 0x0A#8 ≤ w.extractLsb' 0 8) ∨
      w.extractLsb' 17 15 ≠ 0#15 ∨
      ((0x01#8 ≤ w.extractLsb' 0 8 ∧ w.extractLsb' 0 8 ≤ 0x08#8) ∧ w.getLsbD 16 = true) ∨
      ((w.extractLsb' 0 8 = 0x03#8 ∨ w.extractLsb' 0 8 = 0x04#8) ∧ w.extractLsb' 8 8 ≠ 0x00#8)) ∧
    ((∃ e, decode w = .error e) → ∀ s : State, execute w s = .next { s with err := .illegalCommand })

/-! ## Steps -/

/-- A step whose oldest pending event is a 32-bit write of w to CMD (0x004) is exec of the command w decodes to, then the OK
reply (R22, R61, R87); an illegal word sets STATUS.ERR to IllegalCommand instead. The reply record and the forgotten WORK are
the model's own form (log 2, log 4). -/
def Obligations.StepRunsTheDecodedCommand : Prop :=
  ∀ (s : State) (w : Word) (rest : List HostEvent),
    (∀ i, decode w = .ok i →
      step (facing s (.access (.write 0x004#12 .word w)) rest) =
        onNext (exec i { s with pending := rest }) fun t => replied t ⟨.okay, none⟩) ∧
    (∀ e, decode w = .error e →
      step (facing s (.access (.write 0x004#12 .word w)) rest) =
        .next (replied { s with pending := rest, err := .illegalCommand } ⟨.okay, none⟩))

/-- The state `withFetchWord` builds runs the command of that table word in its very next step (log 3). -/
def Obligations.FetchWordIsRunByTheNextStep : Prop :=
  ∀ (s : State) (nbits w : Nat) (i : Instr), decodeTableWord nbits w = some i →
    step (s.withFetchWord nbits w) = onNext (exec i s) fun t => replied t ⟨.okay, none⟩

/-- Every step goes on: `Execute` "is total on all 2^32 words" (R87), and every access gets a response (R51, R211). -/
def Obligations.EveryStepCompletes : Prop :=
  ∀ s : State, ∃ t, step s = .next t

/-- "serves one access at a time, in the order the host issues them" (R61): a step takes exactly the oldest access off the queue
and gives exactly one reply. Queue and replies are the model's own form (log 3, log 4). -/
def Obligations.EachStepServesTheOldestAccess : Prop :=
  ∀ (s : State) (a : Access) (rest : List HostEvent),
    ∃ t r, step (facing s (.access a) rest) = .next t ∧ t.pending = rest ∧ t.replies = r :: s.replies

/-- With nothing pending the block "holds its state unchanged, except WORK, which is unspecified" (R221, R241). -/
def Obligations.IdleStepChangesOnlyWork : Prop :=
  ∀ s : State, s.pending = [] → step s = .next (workForgotten s)

/-- Reset, whether or not an access is in progress, sets every element to its reset value (R240, R33). The queue, the replies
and the counter are the model's own (log 2, log 3, log 4). -/
def Obligations.ResetEventSetsTheResetValues : Prop :=
  ∀ (s : State) (a : Option Access) (rest : List HostEvent),
    step (facing s (.reset a) rest) =
      .next (workForgotten { State.reset with pending := rest, replies := s.replies, workSeq := s.workSeq })

/-! ## Representation converter -/

/-- R100: hexval, character code by character code. -/
def Obligations.HexvalIsTheDigitTable : Prop :=
  ∀ c : Char8,
    (0x30 ≤ c.toNat ∧ c.toNat ≤ 0x39 → hexval c = some (c.toNat - 0x30)) ∧
    (0x41 ≤ c.toNat ∧ c.toNat ≤ 0x46 → hexval c = some (c.toNat - 0x41 + 10)) ∧
    (0x61 ≤ c.toNat ∧ c.toNat ≤ 0x66 → hexval c = some (c.toNat - 0x61 + 10)) ∧
    (¬ (0x30 ≤ c.toNat ∧ c.toNat ≤ 0x39) ∧ ¬ (0x41 ≤ c.toNat ∧ c.toNat ≤ 0x46) ∧
      ¬ (0x61 ≤ c.toNat ∧ c.toNat ≤ 0x66) → hexval c = none)

/-- R101: binval. -/
def Obligations.BinvalIsTheBinaryDigits : Prop :=
  ∀ c : Char8, binval 0x30#8 = some false ∧ binval 0x31#8 = some true ∧ (c ≠ 0x30#8 → c ≠ 0x31#8 → binval c = none)

/-- R102: HexText gives the sequence S with S[4k+j] = hexval(IN[k])[3-j], or raises InvalidInput. -/
def Obligations.HexTextExpandsEachDigit : Prop :=
  ∀ (s : State) (len : Nat),
    (HexTextIn s len → ∃ seq, s.hexText len = some seq ∧ seq.length = 4 * len ∧
      ∀ k j v, k < len → j < 4 → (s.inBuf[k]?).bind hexval = some v → seq[4 * k + j]? = some (v.testBit (3 - j))) ∧
    (NoHexTextIn s len → s.hexText len = none)

/-- R110: HEX2BIN's next state, on a hex text and on any other. -/
def Obligations.Hex2binLoadsTheBitsOrRaises : Prop :=
  ∀ (s : State) (len : Nat),
    (HexTextIn s len → ∃ b : BitBuf,
      (∀ i : Fin 112, b.getMsbD i.val = if i.val < 4 * len then hexBit s i.val else false) ∧
      exec (.hex2bin len) s = .next { s with bits := b, blen := BitVec.ofNat 8 (4 * len), err := .ok }) ∧
    (NoHexTextIn s len → exec (.hex2bin len) s = .next { s with err := .invalidInput })

/-- R111: BINLOAD's next state, on a binary text and on any other. -/
def Obligations.BinloadLoadsTheBitsOrRaises : Prop :=
  ∀ (s : State) (len : Nat),
    (BinTextIn s len → ∃ b : BitBuf,
      (∀ i : Fin 112, b.getMsbD i.val = if i.val < len then decide (s.inBuf[i] = 0x31#8) else false) ∧
      exec (.binload len) s = .next { s with bits := b, blen := BitVec.ofNat 8 len, err := .ok }) ∧
    (NoBinTextIn s len → exec (.binload len) s = .next { s with err := .invalidInput })

/-- R112: BINSTORE's next state, in every state. -/
def Obligations.BinstoreWritesTheBitsAsText : Prop :=
  ∀ s : State, ∃ o : CharBuf,
    (∀ k : Fin 112, o[k] =
      if k.val < s.blen.toNat then (if s.bits.getMsbD k.val then 0x31#8 else 0x30#8) else 0x00#8) ∧
    exec .binstore s = .next { s with outBuf := o, err := .ok }

/-- R113: BIN2INT's next state. BLEN above 112 never occurs (R25), which the invariant states. -/
def Obligations.Bin2intGivesTheNumberOrRaises : Prop :=
  ∀ s : State,
    (s.blen ≠ 0#8 → blenInRange s → ∃ r : Result,
      r.toNat = uintOf s.blen.toNat (fun i => s.bits.getMsbD i) ∧
      exec .bin2int s = .next { s with res := r, err := .ok }) ∧
    (s.blen = 0#8 → exec .bin2int s = .next { s with err := .invalidInput })

/-- R114: HEX2INT's next state, with RES as the sum over the digits, on a hex text and on any other. -/
def Obligations.Hex2intGivesTheNumberOrRaises : Prop :=
  ∀ (s : State) (len : Nat),
    (HexTextIn s len → ∃ r : Result,
      r.toNat = uintOf (4 * len) (hexBit s) ∧ r.toNat = hexNumber s 0 len ∧
      exec (.hex2int len) s = .next { s with res := r, err := .ok }) ∧
    (NoHexTextIn s len → exec (.hex2int len) s = .next { s with err := .invalidInput })

/-- R115: HEX2BIN then BIN2INT leaves the RES that HEX2INT leaves, both with ERR = 0. -/
def Obligations.Hex2binThenBin2intIsHex2int : Prop :=
  ∀ (s : State) (len : Nat), HexTextIn s len →
    ∃ t u v, exec (.hex2bin len) s = .next t ∧ exec .bin2int t = .next u ∧ exec (.hex2int len) s = .next v ∧
      u.res = v.res ∧ u.err = .ok ∧ v.err = .ok

/-- R116: BINLOAD then BINSTORE gives the text back, with BLEN = LEN. -/
def Obligations.BinloadThenBinstoreGivesTheTextBack : Prop :=
  ∀ (s : State) (len : Nat), BinTextIn s len →
    ∃ t u, exec (.binload len) s = .next t ∧ exec .binstore t = .next u ∧
      (∀ k : Fin 112, k.val < len → u.outBuf[k] = s.inBuf[k]) ∧ u.blen.toNat = len

/-- R117: after a completed HEX2BIN, BLEN = 4·LEN. -/
def Obligations.CompletedHex2binHasFourBitsADigit : Prop :=
  ∀ (s t : State) (len : Nat), exec (.hex2bin len) s = .next t → t.err = .ok → t.blen.toNat = 4 * len

/-! ## Field extractor -/

/-- R140: DFX's next state: the first five bits, ShortMessage for one valid character, InvalidInput for no hex text. R142: every
LEN in 2..28 completes. -/
def Obligations.DfxGivesTheFirstFiveBitsOrRaises : Prop :=
  ∀ (s : State) (len : Nat),
    (HexTextIn s len → 2 ≤ len → ∃ r : Result,
      r.toNat = uintOf 5 (hexBit s) ∧ exec (.dfx len) s = .next { s with res := r, err := .ok }) ∧
    (HexTextIn s len → len = 1 → exec (.dfx len) s = .next { s with err := .shortMessage }) ∧
    (NoHexTextIn s len → exec (.dfx len) s = .next { s with err := .invalidInput })

/-- R141: for a completed DFX, RES = 2·hexval(IN[0]) + (hexval(IN[1]) >> 3). -/
def Obligations.CompletedDfxIsTwoDigitsWorth : Prop :=
  ∀ (s t : State) (len : Nat), exec (.dfx len) s = .next t → t.err = .ok →
    t.res.toNat = 2 * digitAt s 0 + digitAt s 1 >>> 3

/-! ## CRC engine -/

/-- R161: after each number n of iterations, for 28 ≤ L ≤ 112, WORK is the pseudocode's, bit by bit; `WORK[0..i]` are all 0 after
iteration i, "no window reads or writes past index L-1", and `Divide(WORK, L)` is L-24 iterations. -/
def Obligations.DivideIsTheBitSerialDivision : Prop :=
  ∀ (w : BitBuf) (L n : Nat), 28 ≤ L → L ≤ 112 → n ≤ L - 24 → ∀ k : Fin 112,
    ((List.range n).foldl divideStep w).getMsbD k.val = divided (fun i => w.getMsbD i) n k.val ∧
    (k.val < n → ((List.range n).foldl divideStep w).getMsbD k.val = false) ∧
    (L ≤ k.val → ((List.range n).foldl divideStep w).getMsbD k.val = w.getMsbD k.val) ∧
    (divide w L).getMsbD k.val = divided (fun i => w.getMsbD i) (L - 24) k.val

/-- R163: CRCCHK's next state: the remainder of the division of the whole message by R161 and R162, ShortMessage for LEN 1..6,
InvalidInput for no hex text. WORK is left open ("unobservable"). -/
def Obligations.CrcchkGivesTheRemainderOrRaises : Prop :=
  ∀ (s : State) (len : Nat),
    (HexTextIn s len → 7 ≤ len → ∃ (r : Result) (w : BitBuf),
      r.toNat = remainderOf (hexBit s) (4 * len) ∧
      exec (.crcchk len) s = .next { s with res := r, work := w, err := .ok }) ∧
    (HexTextIn s len → len ≤ 6 → exec (.crcchk len) s = .next { s with err := .shortMessage }) ∧
    (NoHexTextIn s len → exec (.crcchk len) s = .next { s with err := .invalidInput })

/-- R164: CRCENC's next state: the same with the last 24 bits forced to zero before the division. -/
def Obligations.CrcencGivesTheParityOrRaises : Prop :=
  ∀ (s : State) (len : Nat),
    (HexTextIn s len → 7 ≤ len → ∃ (r : Result) (w : BitBuf),
      r.toNat = remainderOf (fun i => decide (i < 4 * len - 24) && hexBit s i) (4 * len) ∧
      exec (.crcenc len) s = .next { s with res := r, work := w, err := .ok }) ∧
    (HexTextIn s len → len ≤ 6 → exec (.crcenc len) s = .next { s with err := .shortMessage }) ∧
    (NoHexTextIn s len → exec (.crcenc len) s = .next { s with err := .invalidInput })

/-- R165: as polynomials over GF(2), CRCCHK gives M(x) mod G(x) and CRCENC gives (D(x)·x^24) mod G(x), of degree below 24, RES
bit k the coefficient of x^k. G(x) is R160's x^24 + ... + x^12 + x^10 + x^3 + 1. -/
def Obligations.CrcIsThePolynomialRemainder : Prop :=
  ∀ (s : State) (len : Nat), HexTextIn s len → 7 ≤ len →
    ∃ t u, exec (.crcchk len) s = .next t ∧ exec (.crcenc len) s = .next u ∧ t.err = .ok ∧ u.err = .ok ∧
      t.res.toNat < 2 ^ 24 ∧ u.res.toNat < 2 ^ 24 ∧
      (∑ k ∈ Finset.range 24, if t.res.getLsbD k then (Polynomial.X ^ k : Polynomial (ZMod 2)) else 0) =
        Polynomial.modByMonic
          (∑ i ∈ Finset.range (4 * len), if hexBit s i then Polynomial.X ^ (4 * len - 1 - i) else 0)
          ((∑ k ∈ Finset.range 13, Polynomial.X ^ (12 + k)) + Polynomial.X ^ 10 + Polynomial.X ^ 3 + 1) ∧
      (∑ k ∈ Finset.range 24, if u.res.getLsbD k then (Polynomial.X ^ k : Polynomial (ZMod 2)) else 0) =
        Polynomial.modByMonic
          ((∑ i ∈ Finset.range (4 * len - 24), if hexBit s i then Polynomial.X ^ (4 * len - 25 - i) else 0) *
            Polynomial.X ^ 24)
          ((∑ k ∈ Finset.range 13, Polynomial.X ^ (12 + k)) + Polynomial.X ^ 10 + Polynomial.X ^ 3 + 1)

/-- R166: replacing a message's last 6 characters by the digits of its CRCENC parity makes CRCCHK give 0. -/
def Obligations.EncodedMessageChecksToZero : Prop :=
  ∀ (s s' t : State) (len : Nat), HexTextIn s len → 7 ≤ len → exec (.crcenc len) s = .next t →
    (∀ k : Fin 112, k.val < len - 6 → s'.inBuf[k] = s.inBuf[k]) →
    (∀ j, j < 6 → (s'.inBuf[len - 6 + j]?).bind hexval = some (t.res.toNat >>> (20 - 4 * j) % 16)) →
    ∃ t', exec (.crcchk len) s' = .next t' ∧ t'.err = .ok ∧ t'.res = 0#128

/-- R167: flipping any single bit of a message whose CRCCHK is 0 makes it nonzero. -/
def Obligations.SingleBitFlipIsDetected : Prop :=
  ∀ (s s' t : State) (len i : Nat), HexTextIn s len → HexTextIn s' len → 7 ≤ len → i < 4 * len →
    exec (.crcchk len) s = .next t → t.res = 0#128 →
    (∀ j, j < 4 * len → hexBit s' j = (hexBit s j ^^ decide (j = i))) →
    ∃ t', exec (.crcchk len) s' = .next t' ∧ t'.err = .ok ∧ t'.res ≠ 0#128

/-- R168: CRCCHK and CRCENC are linear over the bitwise XOR of texts of the same length. -/
def Obligations.CrcIsLinear : Prop :=
  ∀ (a b c : State) (len : Nat), HexTextIn a len → HexTextIn b len → HexTextIn c len → 7 ≤ len →
    (∀ j, j < 4 * len → hexBit c j = (hexBit a j ^^ hexBit b j)) →
    (∃ ta tb tc, exec (.crcchk len) a = .next ta ∧ exec (.crcchk len) b = .next tb ∧ exec (.crcchk len) c = .next tc ∧
      tc.res = ta.res ^^^ tb.res) ∧
    (∃ ta tb tc, exec (.crcenc len) a = .next ta ∧ exec (.crcenc len) b = .next tb ∧ exec (.crcenc len) c = .next tc ∧
      tc.res = ta.res ^^^ tb.res)

/-- R170: nothing an earlier command left in WORK reaches a command's result: with any other WORK, every command gives the same
next state up to WORK. -/
def Obligations.NoResultDependsOnEarlierWork : Prop :=
  ∀ (i : Instr) (s : State) (w : BitBuf), ∃ (t : State) (w' : BitBuf),
    exec i s = .next t ∧ exec i { s with work := w } = .next { t with work := w' }

/-- CRCENC's result does not depend on the last 6 characters, as long as they are hex digits (R164's corner case). -/
def Obligations.CrcencIgnoresTheParityCharacters : Prop :=
  ∀ (s s' : State) (len : Nat), HexTextIn s len → HexTextIn s' len → 7 ≤ len →
    (∀ k : Fin 112, k.val < len - 6 → s'.inBuf[k] = s.inBuf[k]) →
    ∃ t t', exec (.crcenc len) s = .next t ∧ exec (.crcenc len) s' = .next t' ∧ t.err = .ok ∧ t'.err = .ok ∧
      t'.res = t.res

/-- CRCCHK of a message is CRCENC of it XOR the number its last 6 characters write (spec/95_test_vectors.md L2.6, from R165 and
R168). -/
def Obligations.CrcchkIsCrcencXorTheParity : Prop :=
  ∀ (s : State) (len : Nat), HexTextIn s len → 7 ≤ len →
    ∃ t u, exec (.crcchk len) s = .next t ∧ exec (.crcenc len) s = .next u ∧
      t.res = u.res ^^^ BitVec.ofNat 128 (hexNumber s (len - 6) 6)

/-! ## ICAO address classifier -/

/-- R191 over the bands of R190: ICAOCHK's next state, for every ABS, LEN and text. -/
def Obligations.IcaochkClassifiesTheAddress : Prop :=
  ∀ (s : State) (abs : Bool) (len : Nat), ∃ r : Result,
    exec (.icaochk abs len) s = .next { s with res := r, err := .ok } ∧
    (abs = true → r = 0#128) ∧
    (abs = false → len ≠ 6 → r = 0#128) ∧
    (abs = false → len = 6 → NoHexTextIn s 6 → r = 0#128) ∧
    (abs = false → len = 6 → HexTextIn s 6 →
      (∃ band ∈ bandTable, band.1 < hexNumber s 0 6 ∧ hexNumber s 0 6 < band.2) → r = 0#128) ∧
    (abs = false → len = 6 → HexTextIn s 6 →
      (¬ ∃ band ∈ bandTable, band.1 < hexNumber s 0 6 ∧ hexNumber s 0 6 < band.2) → r = 1#128)

/-- R193: an address equal to a band's lo or hi is assigned. -/
def Obligations.BandEndpointsAreAssigned : Prop :=
  ∀ (s : State) (band : Nat × Nat), band ∈ bandTable → HexTextIn s 6 →
    hexNumber s 0 6 = band.1 ∨ hexNumber s 0 6 = band.2 →
    exec (.icaochk false 6) s = .next { s with res := 1#128, err := .ok }

/-- R194: the assigned set, as ranges with both ends included. -/
def Obligations.AssignedAddressesAreTheListedRanges : Prop :=
  ∀ s : State, HexTextIn s 6 → ∃ t, exec (.icaochk false 6) s = .next t ∧
    (t.res = 1#128 ↔
      (hexNumber s 0 6 ≤ 0x200000 ∨ (0x27FFFF ≤ hexNumber s 0 6 ∧ hexNumber s 0 6 ≤ 0x280000) ∨
       (0x28FFFF ≤ hexNumber s 0 6 ∧ hexNumber s 0 6 ≤ 0x500000) ∨
       (0x5FFFFF ≤ hexNumber s 0 6 ∧ hexNumber s 0 6 ≤ 0x600000) ∨
       (0x67FFFF ≤ hexNumber s 0 6 ∧ hexNumber s 0 6 ≤ 0x680000) ∨
       (0x6F0000 ≤ hexNumber s 0 6 ∧ hexNumber s 0 6 ≤ 0x900000) ∨
       (0x9FFFFF ≤ hexNumber s 0 6 ∧ hexNumber s 0 6 ≤ 0xB00000) ∨
       (0xBFFFFF ≤ hexNumber s 0 6 ∧ hexNumber s 0 6 ≤ 0xD00000) ∨
       (0xDFFFFF ≤ hexNumber s 0 6 ∧ hexNumber s 0 6 ≤ 0xF00000) ∨ hexNumber s 0 6 = 0xFFFFFF))

/-! ## Errors, frames and what a command may read -/

/-- R213: "the state after a raising command is exactly the state before it, except STATUS.ERR", for every word written to CMD. -/
def Obligations.RaisingCommandChangesOnlyErr : Prop :=
  ∀ (w : Word) (s t : State), execute w s = .next t → t.err ≠ .ok → t = { s with err := t.err }

/-- R212 and R210: exactly one code, in the order IllegalCommand, InvalidInput, ShortMessage, each exactly on its causes. -/
def Obligations.ErrorCodesHaveExactlyTheirCauses : Prop :=
  (∀ (w : Word) (s t : State), execute w s = .next t →
    (t.err = .illegalCommand ↔ ∃ e, decode w = .error e)) ∧
  (∀ (i : Instr) (s t : State), exec i s = .next t →
    (t.err = .invalidInput ↔ invalidCause i s) ∧ (t.err = .shortMessage ↔ shortCause i s) ∧
    (t.err = .ok ↔ ¬ invalidCause i s ∧ ¬ shortCause i s))

/-- R20's "written by" column: which commands may write each element; IN and the model's own fields are written by none. -/
def Obligations.CommandsWriteOnlyTheirElements : Prop :=
  ∀ (i : Instr) (s t : State), exec i s = .next t →
    t.inBuf = s.inBuf ∧ t.pending = s.pending ∧ t.replies = s.replies ∧ t.workSeq = s.workSeq ∧
    ((∀ len, i ≠ .hex2bin len ∧ i ≠ .binload len) → t.bits = s.bits ∧ t.blen = s.blen) ∧
    (i ≠ .binstore → t.outBuf = s.outBuf) ∧
    ((∃ len, i = .hex2bin len ∨ i = .binload len) ∨ i = .binstore → t.res = s.res) ∧
    ((∀ len, i ≠ .crcchk len ∧ i ≠ .crcenc len) → t.work = s.work)

/-- "A command reads only IN[0..LEN)" of IN (R28): with the rest of IN changed, every command does the same. -/
def Obligations.CommandsReadOnlyTheirText : Prop :=
  ∀ (i : Instr) (s : State) (buf : CharBuf), (∀ k : Fin 112, k.val < i.len → buf[k] = s.inBuf[k]) →
    ∃ t, exec i s = .next t ∧ exec i { s with inBuf := buf } = .next { t with inBuf := buf }

/-- "Upper and lower case are equal" (R100): every command but BINLOAD sees only the digit values of IN. -/
def Obligations.CommandsSeeOnlyDigitValues : Prop :=
  ∀ (i : Instr) (s : State) (buf : CharBuf), (∀ len, i ≠ .binload len) →
    (∀ k : Fin 112, hexval buf[k] = hexval s.inBuf[k]) →
    ∃ t, exec i s = .next t ∧ exec i { s with inBuf := buf } = .next { t with inBuf := buf }

/-- Writing the same command word twice runs it twice with the same results (R55): the second run changes nothing but WORK. -/
def Obligations.RepeatedCommandGivesTheSameResults : Prop :=
  ∀ (w : Word) (s t : State), execute w s = .next t → ∃ v : BitBuf, execute w t = .next { t with work := v }

/-- With IN all 0x00, as after reset, every text command raises InvalidInput and ICAOCHK gives 0 (R243's last sentence). -/
def Obligations.BlankInputMakesTextCommandsRaise : Prop :=
  ∀ (s : State) (len : Nat) (abs : Bool), s.inBuf = State.reset.inBuf →
    exec (.hex2bin len) s = .next { s with err := .invalidInput } ∧
    exec (.binload len) s = .next { s with err := .invalidInput } ∧
    exec (.hex2int len) s = .next { s with err := .invalidInput } ∧
    exec (.dfx len) s = .next { s with err := .invalidInput } ∧
    exec (.crcchk len) s = .next { s with err := .invalidInput } ∧
    exec (.crcenc len) s = .next { s with err := .invalidInput } ∧
    exec (.icaochk abs len) s = .next { s with res := 0#128, err := .ok }

/-- WORK "is not observable" (R30): two states that differ only in WORK take steps to states that differ only in WORK; registers,
buffers and replies are the same. -/
def Obligations.WorkIsNeverObservable : Prop :=
  ∀ s s' : State, SameButWork s s' → ∃ t t', step s = .next t ∧ step s' = .next t' ∧ SameButWork t t'

/-! ## Host window -/

/-- R21, R22, R23, R25, R53: what a 32-bit read of GEN, CMD, STATUS and BLEN returns, and that it changes nothing. -/
def Obligations.ControlRegistersReadAsSpecified : Prop :=
  ∀ (s : State) (rest : List HostEvent),
    step (facing s (.access (.read 0x000#12 .word)) rest) =
      .next (replied { s with pending := rest } ⟨.okay, some 0x01FFF409#32⟩) ∧
    step (facing s (.access (.read 0x004#12 .word)) rest) =
      .next (replied { s with pending := rest } ⟨.okay, some 0#32⟩) ∧
    step (facing s (.access (.read 0x008#12 .word)) rest) =
      .next (replied { s with pending := rest } ⟨.okay, some (match s.err with
        | .ok => 0#32
        | .invalidInput => 1#32
        | .shortMessage => 2#32
        | .illegalCommand => 3#32)⟩) ∧
    step (facing s (.access (.read 0x00C#12 .word)) rest) =
      .next (replied { s with pending := rest } ⟨.okay, some (BitVec.ofNat 32 s.blen.toNat)⟩)

/-- R58: a read of RESk (0x010 + 4k) returns RES[32k+31 : 32k]. -/
def Obligations.ResultWordsAreLeastSignificantFirst : Prop :=
  ∀ (s : State) (rest : List HostEvent) (k : Fin 4), ∃ v : Word,
    step (facing s (.access (.read (BitVec.ofNat 12 (0x010 + 4 * k.val)) .word)) rest) =
      .next (replied { s with pending := rest } ⟨.okay, some v⟩) ∧
    ∀ j : Fin 32, v.getLsbD j.val = s.res.getLsbD (32 * k.val + j.val)

/-- R57: a read of BITWk (0x020 + 4k) holds BITS[i] in bit 31 - (i mod 32) of word i div 32, and 0 in bits 15:0 of BITW3. -/
def Obligations.BitWordsAreMostSignificantFirst : Prop :=
  ∀ (s : State) (rest : List HostEvent) (k : Fin 4), ∃ v : Word,
    step (facing s (.access (.read (BitVec.ofNat 12 (0x020 + 4 * k.val)) .word)) rest) =
      .next (replied { s with pending := rest } ⟨.okay, some v⟩) ∧
    (∀ i : Fin 112, i.val / 32 = k.val → v.getLsbD (31 - i.val % 32) = s.bits.getMsbD i.val) ∧
    (k = 3 → ∀ j : Fin 16, v.getLsbD j.val = false)

/-- R56: a read of INWk (0x100 + 4k) or OUTWk (0x200 + 4k) holds character 4k+j in bits 8j+7:8j. -/
def Obligations.CharacterWordsAreLittleEndian : Prop :=
  ∀ (s : State) (rest : List HostEvent) (k : Fin 28), ∃ v u : Word,
    step (facing s (.access (.read (BitVec.ofNat 12 (0x100 + 4 * k.val)) .word)) rest) =
      .next (replied { s with pending := rest } ⟨.okay, some v⟩) ∧
    step (facing s (.access (.read (BitVec.ofNat 12 (0x200 + 4 * k.val)) .word)) rest) =
      .next (replied { s with pending := rest } ⟨.okay, some u⟩) ∧
    ∀ n : Fin 112, n.val / 4 = k.val →
      v.extractLsb' (8 * (n.val % 4)) 8 = s.inBuf[n] ∧ u.extractLsb' (8 * (n.val % 4)) 8 = s.outBuf[n]

/-- R54: a 32-bit write of v to INWk sets IN[4k+j] to v[8j+7:8j] and has no other effect. -/
def Obligations.InputWordWriteStoresFourCharacters : Prop :=
  ∀ (s : State) (rest : List HostEvent) (k : Fin 28) (v : Word), ∃ buf : CharBuf,
    step (facing s (.access (.write (BitVec.ofNat 12 (0x100 + 4 * k.val)) .word v)) rest) =
      .next (replied { s with pending := rest, inBuf := buf } ⟨.okay, none⟩) ∧
    ∀ n : Fin 112, buf[n] = if n.val / 4 = k.val then v.extractLsb' (8 * (n.val % 4)) 8 else s.inBuf[n]

/-- R55: a 32-bit write to a read-only register gets the OK response and changes no state. -/
def Obligations.ReadOnlyWritesAreIgnored : Prop :=
  ∀ (s : State) (rest : List HostEvent) (off : Offset) (v : Word), Mapped off.toNat →
    off.toNat ≠ 0x004 → ¬ (0x100 ≤ off.toNat ∧ off.toNat ≤ 0x16C) →
    step (facing s (.access (.write off .word v)) rest) = .next (replied { s with pending := rest } ⟨.okay, none⟩)

/-- R51 and R211: an access of another width, misaligned or to an unmapped offset gets a bus error, a read returns 0, and no state
changes, STATUS included; an aligned 32-bit access to a mapped offset gets the OK response. -/
def Obligations.OnlyAlignedMappedWordsAreAccepted : Prop :=
  ∀ (s : State) (rest : List HostEvent) (off : Offset) (width : Width) (v : Word),
    (¬ (width = .word ∧ Mapped off.toNat) →
      step (facing s (.access (.read off width)) rest) =
        .next (replied { s with pending := rest } ⟨.busError, some 0#32⟩) ∧
      step (facing s (.access (.write off width v)) rest) =
        .next (replied { s with pending := rest } ⟨.busError, none⟩)) ∧
    (width = .word ∧ Mapped off.toNat →
      (∃ d, step (facing s (.access (.read off width)) rest) =
        .next (replied { s with pending := rest } ⟨.okay, some d⟩)) ∧
      ∃ t, step (facing s (.access (.write off width v)) rest) = .next t ∧ t.replies = ⟨.okay, none⟩ :: s.replies)

/-- "A read that follows a CMD write sees all of that command's results" (R244, R61): after the write of any word w to CMD, a read
of a mapped register returns what that register holds in the state `Execute(w)` gave. -/
def Obligations.ReadAfterCommandSeesItsResults : Prop :=
  ∀ (s t : State) (w : Word) (r : Register) (rest : List HostEvent), execute w s = .next t →
    ∃ t1 t2, step (facing s (.access (.write 0x004#12 .word w)) (.access (.read r.offset .word) :: rest)) = .next t1 ∧
      step t1 = .next t2 ∧ t2.replies = ⟨.okay, some (readRegister r t)⟩ :: ⟨.okay, none⟩ :: s.replies

/-! ## Reset and the invariant -/

/-- R33: every element's value after reset. WORK is unspecified there, so nothing is said of it. -/
def Obligations.ResetStateHoldsTheResetValues : Prop :=
  genWord = 0x01FFF409#32 ∧ statusWord State.reset.err = 0x00000000#32 ∧ State.reset.err = .ok ∧
  State.reset.blen = 0#8 ∧ (∀ i : Fin 112, State.reset.bits.getMsbD i.val = false) ∧ State.reset.res = 0#128 ∧
  (∀ k : Fin 112, State.reset.inBuf[k] = 0x00#8) ∧ (∀ k : Fin 112, State.reset.outBuf[k] = 0x00#8) ∧
  bands = bandTable

/-- The invariant holds after reset (R33; R13, R25, R26, R29). -/
def Obligations.InvariantHoldsAtReset : Prop := Inv State.reset

/-- From every state that meets the invariant, a step gives a state that meets it: BLEN at most 112 (R25), BITS zero past BLEN
(R26), RES below 2^112 (R13), OUT a text of '0' and '1' padded with 0x00 (R29). -/
def Obligations.EveryStepKeepsTheInvariant : Prop :=
  ∀ s t : State, Inv s → step s = .next t → Inv t

/-! ## Host notation -/

/-- R89: what each statement of a host program expands to. -/
def Obligations.HostStatementsExpandToAccesses : Prop :=
  ∀ (n : Nat) (off : Offset) (imm : Word), n ≤ 255 →
    Stmt.expand (.sw off imm) = [.access (.write off .word imm)] ∧
    Stmt.expand (.lw off) = [.access (.read off .word)] ∧
    Stmt.expand (.raw imm) = [.access (.write 0x004#12 .word imm)] ∧
    Stmt.expand (.command (.hex2bin n)) = [.access (.write 0x004#12 .word (0x01#32 ||| BitVec.ofNat 32 n <<< 8))] ∧
    Stmt.expand (.command (.binload n)) = [.access (.write 0x004#12 .word (0x02#32 ||| BitVec.ofNat 32 n <<< 8))] ∧
    Stmt.expand (.command (.hex2int n)) = [.access (.write 0x004#12 .word (0x05#32 ||| BitVec.ofNat 32 n <<< 8))] ∧
    Stmt.expand (.command (.dfx n)) = [.access (.write 0x004#12 .word (0x06#32 ||| BitVec.ofNat 32 n <<< 8))] ∧
    Stmt.expand (.command (.crcchk n)) = [.access (.write 0x004#12 .word (0x07#32 ||| BitVec.ofNat 32 n <<< 8))] ∧
    Stmt.expand (.command (.crcenc n)) = [.access (.write 0x004#12 .word (0x08#32 ||| BitVec.ofNat 32 n <<< 8))] ∧
    Stmt.expand (.command (.icaochk false n)) =
      [.access (.write 0x004#12 .word (0x09#32 ||| BitVec.ofNat 32 n <<< 8))] ∧
    Stmt.expand (.command .binstore) = [.access (.write 0x004#12 .word 0x03#32)] ∧
    Stmt.expand (.command .bin2int) = [.access (.write 0x004#12 .word 0x04#32)] ∧
    Stmt.expand (.command (.icaochk true 0)) = [.access (.write 0x004#12 .word 0x00010009#32)]

/-- R90: LOADSTR writes the words INW0 .. INW(ceil(len/4)-1), character 4k+j in bits 8j+7:8j of the k-th, 0x00 past the end. -/
def Obligations.LoadstrWritesOnlyTheWordsItReaches : Prop :=
  ∀ text : List Char8, text.length ≤ 112 →
    (Stmt.expand (.loadstr text)).length = (text.length + 3) / 4 ∧
    ∀ k, k < (text.length + 3) / 4 → ∃ v : Word,
      (Stmt.expand (.loadstr text))[k]? = some (.access (.write (BitVec.ofNat 12 (0x100 + 4 * k)) .word v)) ∧
      ∀ j : Fin 4, v.extractLsb' (8 * j.val) 8 = text[4 * k + j.val]?.getD 0x00#8
end

