-- ==== Sys2Proof/Laws/Seq.lean ====
section
/-! SUPPORT. The small lemmas of bit sequences (Machine/Seq.lean): what each element is, lengths, and `uint` (R9, R11). -/

namespace Sys2Proof.Machine

@[simp] theorem length_seqOf {n : Nat} (v : BitVec n) : (seqOf v).length = n := by simp [seqOf]

@[simp] theorem getElem_seqOf {n : Nat} (v : BitVec n) (i : Nat) (h : i < (seqOf v).length) :
    (seqOf v)[i] = v.getMsbD i := by simp [seqOf]

/-- Element i of a built sequence is `f i`. -/
@[simp] theorem getMsbD_ofSeqFn (f : Nat → Bool) (n i : Nat) :
    (ofSeqFn f n).getMsbD i = (decide (i < n) && f i) := by
  induction n with
  | zero => simp [ofSeqFn]
  | succ n ih =>
    rw [ofSeqFn, BitVec.getMsbD_concat, ih]
    by_cases h : i < n
    · have : i < n + 1 := by omega
      simp [h, this]
    · by_cases h' : i = n
      · simp [h']
      · have : ¬ i < n + 1 := by omega
        simp [h, h', this]

/-- Two sequences with the same elements are the same bit vector. -/
theorem eq_of_getMsbD_fin {n : Nat} {v w : BitVec n} (h : ∀ i : Fin n, v.getMsbD i.val = w.getMsbD i.val) : v = w :=
  BitVec.eq_of_getMsbD_eq fun i hi => h ⟨i, hi⟩

@[simp] theorem uint_nil : uint [] = 0 := rfl

@[simp] theorem uint_cons (b : Bool) (rest : List Bool) : uint (b :: rest) = b.toNat * 2 ^ rest.length + uint rest := rfl

theorem uint_append (a b : List Bool) : uint (a ++ b) = uint a * 2 ^ b.length + uint b := by
  induction a with
  | nil => simp
  | cons x a ih =>
    simp only [List.cons_append, uint_cons, List.length_append, ih]
    rw [pow_add]; ring

theorem uint_lt (seq : List Bool) : uint seq < 2 ^ seq.length := by
  induction seq with
  | nil => simp
  | cons b rest ih => cases b <;> simp [pow_succ] <;> omega

@[simp] theorem length_slice {α : Type} (seq : List α) (a b : Nat) :
    (slice seq a b).length = min b seq.length - a := by simp [slice]

end Sys2Proof.Machine
end

