-- ==== Sys2Proof/Laws/Operands.lean ====
section
/-! SUPPORT. What each operand form can be: digit values, texts, the hex text (R100 to R102) and the binary text (R111). -/

namespace Sys2Proof.Machine

/-- A hex digit's value has four bits (R100). -/
theorem hexval_lt {c : Char8} {v : Nat} (h : hexval c = some v) : v < 16 := by
  simp only [hexval] at h
  split at h
  · cases h; omega
  · split at h
    · cases h; omega
    · split at h
      · cases h; omega
      · cases h

@[simp] theorem length_inText (s : State) (len : Nat) : (s.inText len).length = min len 112 := by simp [State.inText]

theorem getElem_inText (s : State) (len i : Nat) (h : i < (s.inText len).length) :
    (s.inText len)[i] = s.inBuf[i]'(by simp at h; omega) := by simp [State.inText]

/-- `digits` succeeds exactly when the valuation does on every character, and gives the values in order. -/
theorem digits_eq_some_iff {α : Type} (val : Char8 → Option α) (text : List Char8) (vs : List α) :
    digits val text = some vs ↔ text.map val = vs.map some := by
  induction text generalizing vs with
  | nil => cases vs <;> simp [digits]
  | cons c rest ih =>
    cases vs with
    | nil => cases hv : val c <;> cases hr : digits val rest <;> simp [digits, hv, hr]
    | cons w ws =>
      simp only [List.map_cons, List.cons.injEq, ← ih ws]
      cases hv : val c <;> cases hr : digits val rest <;> simp [digits, hv, hr]

theorem digits_eq_none_iff {α : Type} (val : Char8 → Option α) (text : List Char8) :
    digits val text = none ↔ ∃ c ∈ text, val c = none := by
  induction text with
  | nil => simp [digits]
  | cons c rest ih =>
    simp only [digits]
    cases hv : val c <;> cases hr : digits val rest <;> simp [hv, hr] at ih ⊢ <;> exact ih

theorem length_digits {α : Type} {val : Char8 → Option α} {text : List Char8} {vs : List α}
    (h : digits val text = some vs) : vs.length = text.length := by
  have := congrArg List.length ((digits_eq_some_iff val text vs).mp h)
  simpa using this.symm

@[simp] theorem length_nibble (v : Nat) : (nibble v).length = 4 := rfl

@[simp] theorem length_flatMap_nibble (vs : List Nat) : (vs.flatMap nibble).length = 4 * vs.length := by
  induction vs with
  | nil => rfl
  | cons v vs ih => rw [List.flatMap_cons, List.length_append, ih, length_nibble, List.length_cons]; omega

/-- The four bits of a digit value denote it. -/
theorem uint_nibble {v : Nat} (h : v < 16) : uint (nibble v) = v := by
  interval_cases v <;> rfl

/-- The bits of digit values denote their base-16 value (R114's two readings). -/
theorem uint_flatMap_nibble {vs : List Nat} (h : ∀ v ∈ vs, v < 16) : uint (vs.flatMap nibble) = base16 vs := by
  induction vs with
  | nil => rfl
  | cons v vs ih =>
    rw [List.flatMap_cons, uint_append, uint_nibble (h v (by simp)), ih fun x hx => h x (by simp [hx]),
      length_flatMap_nibble, pow_mul, base16]
    norm_num

/-- What a hex text is when R102 raises nothing. -/
theorem hexText_eq_some_iff (s : State) (len : Nat) (seq : List Bool) :
    s.hexText len = some seq ↔
      1 ≤ len ∧ len ≤ 28 ∧ ∃ vs, digits hexval (s.inText len) = some vs ∧ seq = vs.flatMap nibble := by
  unfold State.hexText
  split
  · simp; omega
  · split
    · next h => simp at h ⊢; omega
    · next h0 h1 =>
      have : 1 ≤ len ∧ len ≤ 28 := by simp at h1; omega
      cases hd : digits hexval (s.inText len) <;> simp [this, eq_comm]

/-- A hex text has 4·LEN bits. -/
theorem length_hexText {s : State} {len : Nat} {seq : List Bool} (h : s.hexText len = some seq) :
    seq.length = 4 * len := by
  obtain ⟨_, h28, vs, hd, rfl⟩ := (hexText_eq_some_iff s len seq).mp h
  rw [length_flatMap_nibble, length_digits hd, length_inText]; omega

/-- What a binary text is when R111 raises nothing. -/
theorem binText_eq_some_iff (s : State) (len : Nat) (seq : List Bool) :
    s.binText len = some seq ↔ 1 ≤ len ∧ len ≤ 112 ∧ digits binval (s.inText len) = some seq := by
  unfold State.binText
  split
  · simp; omega
  · split
    · next h => simp at h ⊢; omega
    · next h0 h1 =>
      have : 1 ≤ len ∧ len ≤ 112 := by simp at h1; omega
      simp [this]

theorem length_binText {s : State} {len : Nat} {seq : List Bool} (h : s.binText len = some seq) :
    seq.length = len := by
  obtain ⟨_, h112, hd⟩ := (binText_eq_some_iff s len seq).mp h
  rw [length_digits hd, length_inText]; omega

/-- The texts do not look at STATUS, RES, BITS, BLEN, OUT or WORK: only at IN. -/
theorem hexText_congr {s t : State} (h : s.inBuf = t.inBuf) (len : Nat) : s.hexText len = t.hexText len := by
  simp [State.hexText, State.inText, h]

theorem binText_congr {s t : State} (h : s.inBuf = t.inBuf) (len : Nat) : s.binText len = t.binText len := by
  simp [State.binText, State.inText, h]

end Sys2Proof.Machine
end

