-- ==== Sys2Proof/Laws/State.lean ====
section
/-! SUPPORT. One lemma per field of State per update (Machine/Ops.lean), so that no proof unfolds a record update. -/

namespace Sys2Proof.Machine

variable (s : State)

@[simp] theorem State.raise_err (e : ErrCode) : (s.raise e).err = e := rfl
@[simp] theorem State.raise_blen (e : ErrCode) : (s.raise e).blen = s.blen := rfl
@[simp] theorem State.raise_bits (e : ErrCode) : (s.raise e).bits = s.bits := rfl
@[simp] theorem State.raise_res (e : ErrCode) : (s.raise e).res = s.res := rfl
@[simp] theorem State.raise_inBuf (e : ErrCode) : (s.raise e).inBuf = s.inBuf := rfl
@[simp] theorem State.raise_outBuf (e : ErrCode) : (s.raise e).outBuf = s.outBuf := rfl
@[simp] theorem State.raise_work (e : ErrCode) : (s.raise e).work = s.work := rfl
@[simp] theorem State.raise_workSeq (e : ErrCode) : (s.raise e).workSeq = s.workSeq := rfl
@[simp] theorem State.raise_pending (e : ErrCode) : (s.raise e).pending = s.pending := rfl
@[simp] theorem State.raise_replies (e : ErrCode) : (s.raise e).replies = s.replies := rfl

@[simp] theorem State.complete_err : s.complete.err = .ok := rfl
@[simp] theorem State.complete_blen : s.complete.blen = s.blen := rfl
@[simp] theorem State.complete_bits : s.complete.bits = s.bits := rfl
@[simp] theorem State.complete_res : s.complete.res = s.res := rfl
@[simp] theorem State.complete_inBuf : s.complete.inBuf = s.inBuf := rfl
@[simp] theorem State.complete_outBuf : s.complete.outBuf = s.outBuf := rfl
@[simp] theorem State.complete_work : s.complete.work = s.work := rfl
@[simp] theorem State.complete_workSeq : s.complete.workSeq = s.workSeq := rfl
@[simp] theorem State.complete_pending : s.complete.pending = s.pending := rfl
@[simp] theorem State.complete_replies : s.complete.replies = s.replies := rfl

@[simp] theorem State.setRes_err (v : Nat) : (s.setRes v).err = s.err := rfl
@[simp] theorem State.setRes_blen (v : Nat) : (s.setRes v).blen = s.blen := rfl
@[simp] theorem State.setRes_bits (v : Nat) : (s.setRes v).bits = s.bits := rfl
@[simp] theorem State.setRes_res (v : Nat) : (s.setRes v).res = BitVec.ofNat 128 v := rfl
@[simp] theorem State.setRes_inBuf (v : Nat) : (s.setRes v).inBuf = s.inBuf := rfl
@[simp] theorem State.setRes_outBuf (v : Nat) : (s.setRes v).outBuf = s.outBuf := rfl
@[simp] theorem State.setRes_work (v : Nat) : (s.setRes v).work = s.work := rfl
@[simp] theorem State.setRes_workSeq (v : Nat) : (s.setRes v).workSeq = s.workSeq := rfl
@[simp] theorem State.setRes_pending (v : Nat) : (s.setRes v).pending = s.pending := rfl
@[simp] theorem State.setRes_replies (v : Nat) : (s.setRes v).replies = s.replies := rfl

@[simp] theorem State.setBits_err (seq : List Bool) : (s.setBits seq).err = s.err := rfl
@[simp] theorem State.setBits_blen (seq : List Bool) : (s.setBits seq).blen = BitVec.ofNat 8 seq.length := rfl
@[simp] theorem State.setBits_bits (seq : List Bool) : (s.setBits seq).bits = ofSeqFn (fun i => seq[i]?.getD false) 112 := rfl
@[simp] theorem State.setBits_res (seq : List Bool) : (s.setBits seq).res = s.res := rfl
@[simp] theorem State.setBits_inBuf (seq : List Bool) : (s.setBits seq).inBuf = s.inBuf := rfl
@[simp] theorem State.setBits_outBuf (seq : List Bool) : (s.setBits seq).outBuf = s.outBuf := rfl
@[simp] theorem State.setBits_work (seq : List Bool) : (s.setBits seq).work = s.work := rfl
@[simp] theorem State.setBits_workSeq (seq : List Bool) : (s.setBits seq).workSeq = s.workSeq := rfl
@[simp] theorem State.setBits_pending (seq : List Bool) : (s.setBits seq).pending = s.pending := rfl
@[simp] theorem State.setBits_replies (seq : List Bool) : (s.setBits seq).replies = s.replies := rfl

@[simp] theorem State.setOut_err (buf : CharBuf) : (s.setOut buf).err = s.err := rfl
@[simp] theorem State.setOut_blen (buf : CharBuf) : (s.setOut buf).blen = s.blen := rfl
@[simp] theorem State.setOut_bits (buf : CharBuf) : (s.setOut buf).bits = s.bits := rfl
@[simp] theorem State.setOut_res (buf : CharBuf) : (s.setOut buf).res = s.res := rfl
@[simp] theorem State.setOut_inBuf (buf : CharBuf) : (s.setOut buf).inBuf = s.inBuf := rfl
@[simp] theorem State.setOut_outBuf (buf : CharBuf) : (s.setOut buf).outBuf = buf := rfl
@[simp] theorem State.setOut_work (buf : CharBuf) : (s.setOut buf).work = s.work := rfl
@[simp] theorem State.setOut_workSeq (buf : CharBuf) : (s.setOut buf).workSeq = s.workSeq := rfl
@[simp] theorem State.setOut_pending (buf : CharBuf) : (s.setOut buf).pending = s.pending := rfl
@[simp] theorem State.setOut_replies (buf : CharBuf) : (s.setOut buf).replies = s.replies := rfl

@[simp] theorem State.setWork_err (w : BitBuf) : (s.setWork w).err = s.err := rfl
@[simp] theorem State.setWork_blen (w : BitBuf) : (s.setWork w).blen = s.blen := rfl
@[simp] theorem State.setWork_bits (w : BitBuf) : (s.setWork w).bits = s.bits := rfl
@[simp] theorem State.setWork_res (w : BitBuf) : (s.setWork w).res = s.res := rfl
@[simp] theorem State.setWork_inBuf (w : BitBuf) : (s.setWork w).inBuf = s.inBuf := rfl
@[simp] theorem State.setWork_outBuf (w : BitBuf) : (s.setWork w).outBuf = s.outBuf := rfl
@[simp] theorem State.setWork_work (w : BitBuf) : (s.setWork w).work = w := rfl
@[simp] theorem State.setWork_workSeq (w : BitBuf) : (s.setWork w).workSeq = s.workSeq := rfl
@[simp] theorem State.setWork_pending (w : BitBuf) : (s.setWork w).pending = s.pending := rfl
@[simp] theorem State.setWork_replies (w : BitBuf) : (s.setWork w).replies = s.replies := rfl

@[simp] theorem State.setInWord_err (k : Fin 28) (v : Word) : (s.setInWord k v).err = s.err := rfl
@[simp] theorem State.setInWord_blen (k : Fin 28) (v : Word) : (s.setInWord k v).blen = s.blen := rfl
@[simp] theorem State.setInWord_bits (k : Fin 28) (v : Word) : (s.setInWord k v).bits = s.bits := rfl
@[simp] theorem State.setInWord_res (k : Fin 28) (v : Word) : (s.setInWord k v).res = s.res := rfl
@[simp] theorem State.setInWord_inBuf (k : Fin 28) (v : Word) : (s.setInWord k v).inBuf = setCharWord s.inBuf k v := rfl
@[simp] theorem State.setInWord_outBuf (k : Fin 28) (v : Word) : (s.setInWord k v).outBuf = s.outBuf := rfl
@[simp] theorem State.setInWord_work (k : Fin 28) (v : Word) : (s.setInWord k v).work = s.work := rfl
@[simp] theorem State.setInWord_workSeq (k : Fin 28) (v : Word) : (s.setInWord k v).workSeq = s.workSeq := rfl
@[simp] theorem State.setInWord_pending (k : Fin 28) (v : Word) : (s.setInWord k v).pending = s.pending := rfl
@[simp] theorem State.setInWord_replies (k : Fin 28) (v : Word) : (s.setInWord k v).replies = s.replies := rfl

@[simp] theorem State.forgetWork_err : s.forgetWork.err = s.err := rfl
@[simp] theorem State.forgetWork_blen : s.forgetWork.blen = s.blen := rfl
@[simp] theorem State.forgetWork_bits : s.forgetWork.bits = s.bits := rfl
@[simp] theorem State.forgetWork_res : s.forgetWork.res = s.res := rfl
@[simp] theorem State.forgetWork_inBuf : s.forgetWork.inBuf = s.inBuf := rfl
@[simp] theorem State.forgetWork_outBuf : s.forgetWork.outBuf = s.outBuf := rfl
@[simp] theorem State.forgetWork_work : s.forgetWork.work = Config.freeWork s.workSeq := rfl
@[simp] theorem State.forgetWork_workSeq : s.forgetWork.workSeq = s.workSeq + 1 := rfl
@[simp] theorem State.forgetWork_pending : s.forgetWork.pending = s.pending := rfl
@[simp] theorem State.forgetWork_replies : s.forgetWork.replies = s.replies := rfl

@[simp] theorem State.answer_err (r : Reply) : (s.answer r).err = s.err := rfl
@[simp] theorem State.answer_blen (r : Reply) : (s.answer r).blen = s.blen := rfl
@[simp] theorem State.answer_bits (r : Reply) : (s.answer r).bits = s.bits := rfl
@[simp] theorem State.answer_res (r : Reply) : (s.answer r).res = s.res := rfl
@[simp] theorem State.answer_inBuf (r : Reply) : (s.answer r).inBuf = s.inBuf := rfl
@[simp] theorem State.answer_outBuf (r : Reply) : (s.answer r).outBuf = s.outBuf := rfl
@[simp] theorem State.answer_work (r : Reply) : (s.answer r).work = s.work := rfl
@[simp] theorem State.answer_workSeq (r : Reply) : (s.answer r).workSeq = s.workSeq := rfl
@[simp] theorem State.answer_pending (r : Reply) : (s.answer r).pending = s.pending := rfl
@[simp] theorem State.answer_replies (r : Reply) : (s.answer r).replies = r :: s.replies := rfl

@[simp] theorem State.resetBlock_err : s.resetBlock.err = .ok := rfl
@[simp] theorem State.resetBlock_blen : s.resetBlock.blen = 0#8 := rfl
@[simp] theorem State.resetBlock_bits : s.resetBlock.bits = 0#112 := rfl
@[simp] theorem State.resetBlock_res : s.resetBlock.res = 0#128 := rfl
@[simp] theorem State.resetBlock_inBuf : s.resetBlock.inBuf = Vector.replicate 112 0x00#8 := rfl
@[simp] theorem State.resetBlock_outBuf : s.resetBlock.outBuf = Vector.replicate 112 0x00#8 := rfl
@[simp] theorem State.resetBlock_work : s.resetBlock.work = 0#112 := rfl
@[simp] theorem State.resetBlock_workSeq : s.resetBlock.workSeq = s.workSeq := rfl
@[simp] theorem State.resetBlock_pending : s.resetBlock.pending = s.pending := rfl
@[simp] theorem State.resetBlock_replies : s.resetBlock.replies = s.replies := rfl

/-! Reset (R33), field by field. -/

@[simp] theorem State.reset_err : State.reset.err = .ok := rfl
@[simp] theorem State.reset_blen : State.reset.blen = 0#8 := rfl
@[simp] theorem State.reset_bits : State.reset.bits = 0#112 := rfl
@[simp] theorem State.reset_res : State.reset.res = 0#128 := rfl
@[simp] theorem State.reset_inBuf : State.reset.inBuf = Vector.replicate 112 0x00#8 := rfl
@[simp] theorem State.reset_outBuf : State.reset.outBuf = Vector.replicate 112 0x00#8 := rfl
@[simp] theorem State.reset_work : State.reset.work = 0#112 := rfl
@[simp] theorem State.reset_workSeq : State.reset.workSeq = 0 := rfl
@[simp] theorem State.reset_pending : State.reset.pending = [] := rfl
@[simp] theorem State.reset_replies : State.reset.replies = [] := rfl

end Sys2Proof.Machine
end

