-- ==== Sys2Proof/Laws/Ops.lean ====
section
/-! SUPPORT. What the shared operations can do: going on after an outcome, storing an input word, accepting an access, writing
a register, serving an access. -/

namespace Sys2Proof.Machine

@[simp] theorem onNext_next (s : State) (f : State → State) : onNext (.next s) f = .next (f s) := rfl

/-- `onNext` answers a next state exactly when its first part does. -/
theorem onNext_eq_next_iff (o : Host.Outcome State Fault Refusal) (f : State → State) (t : State) :
    onNext o f = .next t ↔ ∃ s, o = .next s ∧ f s = t := by
  cases o <;> simp [onNext]

/-- INWk's four characters after a write (R54, R56), and every other character as before. -/
theorem setCharWord_getElem (buf : CharBuf) (k : Fin 28) (v : Word) (n : Nat) (hn : n < 112) :
    (setCharWord buf k v)[n] = if n / 4 = k.val then v.extractLsb' (8 * (n % 4)) 8 else buf[n] := by
  simp only [setCharWord, Vector.getElem_set]
  by_cases h : n / 4 = k.val
  · have hn4 : n = 4 * k.val + n % 4 := by omega
    have hlt : n % 4 < 4 := Nat.mod_lt _ (by omega)
    generalize n % 4 = m at hn4 hlt
    subst hn4
    interval_cases m <;> simp [h]
  · have h0 : ¬ 4 * k.val = n := by omega
    have h1 : ¬ 4 * k.val + 1 = n := by omega
    have h2 : ¬ 4 * k.val + 2 = n := by omega
    have h3 : ¬ 4 * k.val + 3 = n := by omega
    simp [h, h0, h1, h2, h3]

/-- Only an aligned 32-bit access to a mapped offset is accepted (R51, R52). -/
theorem accepted_isSome_iff (off : Offset) (width : Width) :
    (accepted off width).isSome ↔ width = .word ∧ (registerAt off).isSome := by
  cases width <;> simp [accepted]

/-- Every mapped offset names its register, and each register has one offset (R52). -/
theorem registerAt_offset (r : Register) : registerAt r.offset = some r := by
  cases r with
  | gen => rfl
  | cmd => rfl
  | status => rfl
  | blen => rfl
  | res k => revert k; decide
  | bitw k => revert k; decide
  | inw k => revert k; decide
  | outw k => revert k; decide

/-- What a read does: a reply, and nothing else (R53, R211). -/
theorem serveAccess_read (off : Offset) (width : Width) (s : State) :
    serveAccess (.read off width) s = .next (s.answer
      (match accepted off width with
        | some r => ⟨.okay, some (readRegister r s)⟩
        | none => ⟨.busError, some 0#32⟩)) := by
  cases h : accepted off width <;> simp [serveAccess, h]

/-- What a write does: it is rejected with a bus error, runs a command, stores a word of IN, or is ignored (R51, R55). -/
theorem serveAccess_write (off : Offset) (width : Width) (v : Word) (s : State) :
    (accepted off width = none ∧ serveAccess (.write off width v) s = .next (s.answer ⟨.busError, none⟩)) ∨
    (accepted off width = some .cmd ∧
      serveAccess (.write off width v) s = onNext (execute v s) fun t => t.answer ⟨.okay, none⟩) ∨
    (∃ k, accepted off width = some (.inw k) ∧
      serveAccess (.write off width v) s = .next ((s.setInWord k v).answer ⟨.okay, none⟩)) ∨
    (∃ r, accepted off width = some r ∧ r ≠ .cmd ∧ (∀ k, r ≠ .inw k) ∧
      serveAccess (.write off width v) s = .next (s.answer ⟨.okay, none⟩)) := by
  cases h : accepted off width with
  | none => exact .inl ⟨rfl, by simp [serveAccess, h]⟩
  | some r =>
    cases r with
    | cmd => exact .inr (.inl ⟨rfl, by simp [serveAccess, h, writeRegister]⟩)
    | inw k => exact .inr (.inr (.inl ⟨k, rfl, by simp [serveAccess, h, writeRegister]⟩))
    | gen => exact .inr (.inr (.inr ⟨_, rfl, by simp, by simp, by simp [serveAccess, h, writeRegister]⟩))
    | status => exact .inr (.inr (.inr ⟨_, rfl, by simp, by simp, by simp [serveAccess, h, writeRegister]⟩))
    | blen => exact .inr (.inr (.inr ⟨_, rfl, by simp, by simp, by simp [serveAccess, h, writeRegister]⟩))
    | res k => exact .inr (.inr (.inr ⟨_, rfl, by simp, by simp, by simp [serveAccess, h, writeRegister]⟩))
    | bitw k => exact .inr (.inr (.inr ⟨_, rfl, by simp, by simp, by simp [serveAccess, h, writeRegister]⟩))
    | outw k => exact .inr (.inr (.inr ⟨_, rfl, by simp, by simp, by simp [serveAccess, h, writeRegister]⟩))

end Sys2Proof.Machine
end

