-- ==== Sys2Proof/Laws/Exec.lean ====
section
/-! SUPPORT. What each meaning can do, said once: the inversion of each `exec<Name>` (R110 to R114, R140, R163, R164, R191). -/

namespace Sys2Proof.Machine

theorem execHex2bin_cases (len : Nat) (s : State) :
    (s.hexText len = none ∧ execHex2bin len s = .next (s.raise .invalidInput)) ∨
    ∃ seq, s.hexText len = some seq ∧ execHex2bin len s = .next (s.setBits seq).complete := by
  cases h : s.hexText len <;> simp [execHex2bin, h]

theorem execBinload_cases (len : Nat) (s : State) :
    (s.binText len = none ∧ execBinload len s = .next (s.raise .invalidInput)) ∨
    ∃ seq, s.binText len = some seq ∧ execBinload len s = .next (s.setBits seq).complete := by
  cases h : s.binText len <;> simp [execBinload, h]

theorem execBin2int_cases (s : State) :
    (s.blen = 0#8 ∧ execBin2int s = .next (s.raise .invalidInput)) ∨
    (s.blen ≠ 0#8 ∧ execBin2int s = .next (s.setRes (uint s.bitOperand)).complete) := by
  by_cases h : s.blen = 0#8 <;> simp [execBin2int, h]

theorem execHex2int_cases (len : Nat) (s : State) :
    (s.hexText len = none ∧ execHex2int len s = .next (s.raise .invalidInput)) ∨
    ∃ seq, s.hexText len = some seq ∧ execHex2int len s = .next (s.setRes (uint seq)).complete := by
  cases h : s.hexText len <;> simp [execHex2int, h]

theorem execDfx_cases (len : Nat) (s : State) :
    (s.hexText len = none ∧ execDfx len s = .next (s.raise .invalidInput)) ∨
    (∃ seq, s.hexText len = some seq ∧ 4 * len < 5 ∧ execDfx len s = .next (s.raise .shortMessage)) ∨
    ∃ seq, s.hexText len = some seq ∧ 5 ≤ 4 * len ∧ execDfx len s = .next (s.setRes (uint (slice seq 0 5))).complete := by
  cases h : s.hexText len with
  | none => simp [execDfx, h]
  | some seq =>
    by_cases h5 : 4 * len < 5
    · simp [execDfx, h, h5]
    · simp [execDfx, h, h5]; omega

theorem execCrcchk_cases (len : Nat) (s : State) :
    (s.hexText len = none ∧ execCrcchk len s = .next (s.raise .invalidInput)) ∨
    (∃ seq, s.hexText len = some seq ∧ 4 * len < 25 ∧ execCrcchk len s = .next (s.raise .shortMessage)) ∨
    ∃ seq, s.hexText len = some seq ∧ 25 ≤ 4 * len ∧
      execCrcchk len s = .next (s.finishCrc (loadPrefix s.work seq) (4 * len)) := by
  cases h : s.hexText len with
  | none => simp [execCrcchk, h]
  | some seq =>
    by_cases h25 : 4 * len < 25
    · simp [execCrcchk, h, h25]
    · simp [execCrcchk, h, h25]; omega

theorem execCrcenc_cases (len : Nat) (s : State) :
    (s.hexText len = none ∧ execCrcenc len s = .next (s.raise .invalidInput)) ∨
    (∃ seq, s.hexText len = some seq ∧ 4 * len < 25 ∧ execCrcenc len s = .next (s.raise .shortMessage)) ∨
    ∃ seq, s.hexText len = some seq ∧ 25 ≤ 4 * len ∧
      execCrcenc len s =
        .next (s.finishCrc (clearRange (loadPrefix s.work seq) (4 * len - 24) (4 * len)) (4 * len)) := by
  cases h : s.hexText len with
  | none => simp [execCrcenc, h]
  | some seq =>
    by_cases h25 : 4 * len < 25
    · simp [execCrcenc, h, h25]
    · simp [execCrcenc, h, h25]; omega

/-- The elements of a window XOR: those of the window are flipped by G, the others stay (R161). -/
theorem getMsbD_xorWindow (w : BitBuf) {i : Nat} (hi : i + 25 ≤ 112) (k : Nat) :
    (xorWindow w i).getMsbD k = (w.getMsbD k ^^ (decide (i ≤ k) && decide (k < i + 25) && genPoly.getMsbD (k - i))) := by
  have hi' : 112 - 25 - i = 87 - i := by omega
  simp only [xorWindow, Config.nbits, Config.genLen, hi', BitVec.getMsbD_xor, BitVec.getMsbD_shiftLeft,
    BitVec.getMsbD_setWidth]
  congr 1
  by_cases h1 : i ≤ k
  · by_cases h2 : k < i + 25
    · have : k + (87 - i) - (112 - 25) = k - i := by omega
      have h3 : 87 ≤ k + (87 - i) := by omega
      simp [h1, h2, this, h3]
    · have h4 : ¬ k - i < 25 := by omega
      have : k + (87 - i) - 87 = k - i := by omega
      have : genPoly.getMsbD (k + (87 - i) - 87) = false := by
        rw [this]; simp [BitVec.getMsbD, h4]
      simp [h2, this]
  · have h3 : ¬ 87 ≤ k + (87 - i) := by omega
    simp [h1, h3]

end Sys2Proof.Machine
end

