-- ==== Sys2Proof/Laws/PerInstr.lean ====
section
/-! SUPPORT. A statement made per command: the fields of the word a well-formed command encodes to (R81, R85), which the
round trip of encoding and decoding rests on. -/

namespace Sys2Proof

theorem opField_fieldsWord (op : BitVec 8) (len : Nat) (abs : Bool) : opField (fieldsWord op len abs) = op := by
  ext j hj
  have h1 : j < 16 := by omega
  have h2 : j < 32 := by omega
  simp [opField, fieldsWord, hj, h1, h2, BitVec.getLsbD_eq_getElem]

theorem lenField_fieldsWord (op : BitVec 8) {len : Nat} (h : len ≤ 255) (abs : Bool) :
    lenField (fieldsWord op len abs) = len := by
  have h8 : (fieldsWord op len abs).extractLsb' 8 8 = BitVec.ofNat 8 len := by
    ext j hj
    have h1 : 8 + j < 32 := by omega
    have h2 : 8 + j < 16 := by omega
    simp [fieldsWord, h1, h2, BitVec.getLsbD_eq_getElem, hj]
  rw [lenField, h8, BitVec.toNat_ofNat]
  omega

theorem absField_fieldsWord (op : BitVec 8) (len : Nat) (abs : Bool) : absField (fieldsWord op len abs) = abs := by
  simp [absField, fieldsWord]

theorem rsvField_fieldsWord (op : BitVec 8) (len : Nat) (abs : Bool) : rsvField (fieldsWord op len abs) = 0#15 := by
  ext j hj
  have h1 : op.getLsbD (17 + j) = false := BitVec.getLsbD_of_ge _ _ (by omega)
  have h2 : (BitVec.ofNat 8 len).getLsbD (17 + j - 8) = false := BitVec.getLsbD_of_ge _ _ (by omega)
  have h3 : (BitVec.ofBool abs).getLsbD (17 + j - 16) = false := BitVec.getLsbD_of_ge _ _ (by omega)
  simp [rsvField, fieldsWord, h1, h2, h3]

namespace Laws.EncodedFields

/-- Every field of the word of a well-formed command: OP its code, LEN and ABS its operands, RSV zero. -/
def Statement (i : Instr) : Prop :=
  i.wf = true →
    opField (encode i) = i.op.code ∧ lenField (encode i) = i.len ∧ absField (encode i) = i.abs ∧ rsvField (encode i) = 0#15

theorem of_len_le {i : Instr} (h : i.wf = true → i.len ≤ 255) : Statement i := fun hw =>
  ⟨opField_fieldsWord .., lenField_fieldsWord _ (h hw) _, absField_fieldsWord .., rsvField_fieldsWord ..⟩

theorem hex2bin (len : Nat) : Statement (.hex2bin len) := of_len_le fun h => by simpa [Instr.wf, Instr.len, lenFits] using h
theorem binload (len : Nat) : Statement (.binload len) := of_len_le fun h => by simpa [Instr.wf, Instr.len, lenFits] using h
theorem binstore : Statement .binstore := of_len_le fun _ => by decide
theorem bin2int : Statement .bin2int := of_len_le fun _ => by decide
theorem hex2int (len : Nat) : Statement (.hex2int len) := of_len_le fun h => by simpa [Instr.wf, Instr.len, lenFits] using h
theorem dfx (len : Nat) : Statement (.dfx len) := of_len_le fun h => by simpa [Instr.wf, Instr.len, lenFits] using h
theorem crcchk (len : Nat) : Statement (.crcchk len) := of_len_le fun h => by simpa [Instr.wf, Instr.len, lenFits] using h
theorem crcenc (len : Nat) : Statement (.crcenc len) := of_len_le fun h => by simpa [Instr.wf, Instr.len, lenFits] using h
theorem icaochk (abs : Bool) (len : Nat) : Statement (.icaochk abs len) :=
  of_len_le fun h => by simpa [Instr.wf, Instr.len, lenFits] using h

end Laws.EncodedFields

end Sys2Proof
end

