-- ==== Sys2Proof/Tests/Slice0.lean ====
section
/-! SUPPORT. The model's own tests: well-formedness, decoding by words written out from R81 and R84, one or two steps of each
command with results from spec/95_test_vectors.md, and a witness for the hypotheses of each statement that has some. -/

-- One kernel evaluation at a time: side by side they ask for more threads than a checking machine may have.
set_option Elab.async false

namespace Sys2Proof.Tests

open Sys2Proof.Machine Sys2Proof.Machine.Spec

/-! ## Small states -/

/-- The state after reset with a text in IN, given by its character codes. -/
def withText (codes : List Nat) : State :=
  { State.reset with inBuf := Vector.ofFn fun k => BitVec.ofNat 8 (codes[k.val]?.getD 0) }

/-- Every character of IN is '1': a hex text of every LEN 1..28 and a binary text of every LEN 1..112. -/
def allOnes : State := { State.reset with inBuf := Vector.replicate 112 0x31#8 }

/-- "8D406B902015A678D4D220AA4BDA" (msg1 of spec/95_test_vectors.md). -/
def msg1 : List Nat :=
  [0x38, 0x44, 0x34, 0x30, 0x36, 0x42, 0x39, 0x30, 0x32, 0x30, 0x31, 0x35, 0x41, 0x36] ++
  [0x37, 0x38, 0x44, 0x34, 0x44, 0x32, 0x32, 0x30, 0x41, 0x41, 0x34, 0x42, 0x44, 0x41]

/-- The next state of an outcome, or the reset state where there is none. -/
def nextOf : Host.Outcome State Fault Refusal → State
  | .next s => s
  | .fault _ => State.reset
  | .refused _ => State.reset

/-! ## Well-formedness: LEN has 8 bits (R81) -/

theorem test_len_255_is_well_formed : (Instr.hex2bin 255).wf = true ∧ (Instr.icaochk true 255).wf = true := by decide

theorem test_len_256_is_refused :
    (Instr.hex2bin 256).wf = false ∧ (Instr.binload 256).wf = false ∧ (Instr.hex2int 256).wf = false ∧
    (Instr.dfx 256).wf = false ∧ (Instr.crcchk 256).wf = false ∧ (Instr.crcenc 256).wf = false ∧
    (Instr.icaochk false 256).wf = false := by decide

/-! ## Decoding: RSV (15 bits), ABS (1), LEN (8), OP (8), left to right (R81, R84) -/

theorem test_decode_hex2bin : decode 0b00000000000000000001110000000001#32 = .ok (.hex2bin 28) := by decide
theorem test_decode_binload : decode 0b00000000000000000000010100000010#32 = .ok (.binload 5) := by decide
theorem test_decode_binstore : decode 0b00000000000000000000000000000011#32 = .ok .binstore := by decide
theorem test_decode_bin2int : decode 0b00000000000000000000000000000100#32 = .ok .bin2int := by decide
theorem test_decode_hex2int : decode 0b00000000000000000000011000000101#32 = .ok (.hex2int 6) := by decide
theorem test_decode_dfx : decode 0b00000000000000001111111100000110#32 = .ok (.dfx 255) := by decide
theorem test_decode_crcchk : decode 0b00000000000000000001110000000111#32 = .ok (.crcchk 28) := by decide
theorem test_decode_crcenc : decode 0b00000000000000000001110000001000#32 = .ok (.crcenc 28) := by decide
theorem test_decode_icaochk : decode 0b00000000000000000000011000001001#32 = .ok (.icaochk false 6) := by decide
theorem test_decode_icaochk_absent : decode 0b00000000000000010000000000001001#32 = .ok (.icaochk true 0) := by decide

/-- V40a to V40j: each illegal word is rejected, by the name of R86's item. -/
theorem test_decode_rejects :
    decode 0x00000000#32 = .error .unassignedOpcode ∧ decode 0x0000000A#32 = .error .unassignedOpcode ∧
    decode 0x000000FF#32 = .error .unassignedOpcode ∧ decode 0x00020001#32 = .error .reservedBits ∧
    decode 0x80000007#32 = .error .reservedBits ∧ decode 0x00010007#32 = .error .absNotAllowed ∧
    decode 0x00010001#32 = .error .absNotAllowed ∧ decode 0x00000104#32 = .error .lenNotAllowed ∧
    decode 0x00000103#32 = .error .lenNotAllowed ∧ decode 0x00021C09#32 = .error .reservedBits := by decide

/-! ## One command each (spec/95_test_vectors.md) -/

/-- V1: the bits of msg1, as BITW0 and BITW3 read, and BLEN = 112. -/
theorem test_hex2bin_msg1 :
    let t := nextOf (exec (.hex2bin 28) (withText msg1))
    bitWord t.bits 0 = 0x8D406B90#32 ∧ bitWord t.bits 3 = 0x4BDA0000#32 ∧ t.blen = 112#8 ∧ t.err = .ok := by decide +kernel

/-- V4d: "0x1F" is no hex text; BLEN keeps its value. -/
theorem test_hex2bin_rejects_prefix :
    let t := nextOf (exec (.hex2bin 4) { withText [0x30, 0x78, 0x31, 0x46] with blen := 9#8 })
    t.err = .invalidInput ∧ t.blen = 9#8 := by decide +kernel

/-- V5a: "10001" gives BITW0 = 0x88000000 and BLEN = 5. -/
theorem test_binload_10001 :
    let t := nextOf (exec (.binload 5) (withText [0x31, 0x30, 0x30, 0x30, 0x31]))
    bitWord t.bits 0 = 0x88000000#32 ∧ t.blen = 5#8 := by decide +kernel

/-- V5j: LEN = 113 is over the capacity. -/
theorem test_binload_113 : (nextOf (exec (.binload 113) allOnes)).err = .invalidInput := by decide +kernel

/-- V5c: the text of "10001" as OUTW0 and OUTW1 read. -/
theorem test_binstore_10001 :
    let t := nextOf (exec .binstore { State.reset with bits := 0b10001#112 <<< 107, blen := 5#8 })
    charWord t.outBuf 0 = 0x30303031#32 ∧ charWord t.outBuf 1 = 0x00000031#32 := by decide +kernel

/-- V5h: 33 bits, 32 ones and a zero, denote 0x1FFFFFFFE. -/
theorem test_bin2int_33_bits :
    (nextOf (exec .bin2int { State.reset with bits := 0xFFFFFFFF#112 <<< 80, blen := 33#8 })).res = 0x1FFFFFFFE#128 := by
  decide +kernel

/-- V5l: BIN2INT after reset raises InvalidInput. -/
theorem test_bin2int_empty : (nextOf (exec .bin2int State.reset)).err = .invalidInput := by decide +kernel

/-- V6a: msg1 as an integer. -/
theorem test_hex2int_msg1 :
    (nextOf (exec (.hex2int 28) (withText msg1))).res = 0x00008D406B902015A678D4D220AA4BDA#128 := by decide +kernel

/-- V10: DF 17. -/
theorem test_dfx_msg1 : (nextOf (exec (.dfx 28) (withText msg1))).res = 17#128 := by decide +kernel

/-- V12a and V12d: one valid character is ShortMessage, one bad character InvalidInput. -/
theorem test_dfx_short :
    (nextOf (exec (.dfx 1) (withText [0x38]))).err = .shortMessage ∧
    (nextOf (exec (.dfx 1) (withText [0x5A]))).err = .invalidInput := by decide +kernel

/-- V20: msg1 checks to 0. V24b: with its last character B for A it checks to 1. -/
theorem test_crcchk_msg1 :
    (nextOf (exec (.crcchk 28) (withText msg1))).res = 0#128 ∧
    (nextOf (exec (.crcchk 28) (withText (msg1.take 27 ++ [0x42])))).res = 1#128 := by decide +kernel

/-- V25d: "FFFFFFF", the shortest length. -/
theorem test_crcchk_shortest : (nextOf (exec (.crcchk 7) (withText (List.replicate 7 0x46)))).res = 0x5FB7#128 := by
  decide +kernel

/-- V21: the parity of msg1. -/
theorem test_crcenc_msg1 : (nextOf (exec (.crcenc 28) (withText msg1))).res = 0xAA4BDA#128 := by decide +kernel

/-- V25d: "FFFFFFF" encodes to 0xFFA048. -/
theorem test_crcenc_shortest : (nextOf (exec (.crcenc 7) (withText (List.replicate 7 0x46)))).res = 0xFFA048#128 := by
  decide +kernel

/-- V31 and V32: "280000" is a band's own bound (1), "285000" is inside it (0). -/
theorem test_icaochk_bound :
    (nextOf (exec (.icaochk false 6) (withText [0x32, 0x38, 0x30, 0x30, 0x30, 0x30]))).res = 1#128 ∧
    (nextOf (exec (.icaochk false 6) (withText [0x32, 0x38, 0x35, 0x30, 0x30, 0x30]))).res = 0#128 := by decide +kernel

/-- V34e and V33b: "6F0001" is assigned (band 5 as given); ABS = 1 wins over the text. -/
theorem test_icaochk_absent :
    (nextOf (exec (.icaochk false 6) (withText [0x36, 0x46, 0x30, 0x30, 0x30, 0x31]))).res = 1#128 ∧
    (nextOf (exec (.icaochk true 6) (withText [0x36, 0x46, 0x30, 0x30, 0x30, 0x31]))).res = 0#128 := by decide +kernel

/-! ## The host window (V51, V53 to V55, R240) -/

/-- V54: 0x30344438 written to INW0 puts "8D40" into IN. -/
theorem test_write_inw0 :
    let t := nextOf (step (facing State.reset (.access (.write 0x100#12 .word 0x30344438#32)) []))
    t.inBuf[0] = 0x38#8 ∧ t.inBuf[3] = 0x30#8 ∧ charWord t.inBuf 0 = 0x30344438#32 := by decide +kernel

/-- V55a to V55d: misaligned, narrow and unmapped reads get a bus error and 0. -/
theorem test_bus_errors :
    (nextOf (step (facing State.reset (.access (.read 0x002#12 .word)) []))).replies = [⟨.busError, some 0#32⟩] ∧
    (nextOf (step (facing State.reset (.access (.read 0x000#12 .half)) []))).replies = [⟨.busError, some 0#32⟩] ∧
    (nextOf (step (facing State.reset (.access (.read 0x270#12 .word)) []))).replies = [⟨.busError, some 0#32⟩] ∧
    (nextOf (step (facing State.reset (.access (.read 0x26C#12 .word)) []))).replies = [⟨.okay, some 0#32⟩] := by
  decide +kernel

/-- V56's first half and R240: a zero word raises IllegalCommand; a reset event clears it. -/
theorem test_illegal_word_and_reset :
    (nextOf (step (State.reset.withFetchWord 32 0))).err = .illegalCommand ∧
    (nextOf (step (facing { State.reset with err := .illegalCommand } (.reset none) []))).err = .ok := by decide +kernel

/-! ## Witnesses: states and operands that meet the hypotheses of the statements -/

theorem witness_DecodeOfEncodeIsTheCommand : (Instr.hex2bin 255).wf = true ∧ Instr.binstore.wf = true := by decide

theorem witness_EncodeOfDecodeIsTheWord : decode 0x0001FF09#32 = .ok (.icaochk true 255) := by decide

theorem witness_AtMostOneRowSelectsAWord :
    (⟨.icaochk, 0x00000009#32, 0xFFFE00FF#32⟩ : Row) ∈ opcodeTable ∧
    (⟨.icaochk, 0x00000009#32, 0xFFFE00FF#32⟩ : Row).selects 0x0001FF09#32 = true := by decide

theorem witness_IllegalWordsOnlySetIllegalCommand :
    (∃ e, decode 0x0000000A#32 = .error e) ∧ (∃ e, decode 0x00020009#32 = .error e) ∧
    (∃ e, decode 0x00010008#32 = .error e) ∧ (∃ e, decode 0x00000103#32 = .error e) :=
  ⟨⟨_, rfl⟩, ⟨_, rfl⟩, ⟨_, rfl⟩, ⟨_, rfl⟩⟩

theorem witness_StepRunsTheDecodedCommand :
    decode 0x00001C07#32 = .ok (.crcchk 28) ∧ decode 0x00000000#32 = .error .unassignedOpcode := by decide

theorem witness_FetchWordIsRunByTheNextStep : decodeTableWord 32 0x00001C08 = some (.crcenc 28) := by decide

theorem witness_IdleStepChangesOnlyWork : State.reset.pending = [] := rfl

/-- Each branch of R100 at both ends of its range, and a code just outside each. -/
theorem witness_HexvalIsTheDigitTable :
    hexval 0x30#8 = some 0 ∧ hexval 0x39#8 = some 9 ∧ hexval 0x41#8 = some 10 ∧ hexval 0x46#8 = some 15 ∧
    hexval 0x61#8 = some 10 ∧ hexval 0x66#8 = some 15 ∧ hexval 0x2F#8 = none ∧ hexval 0x3A#8 = none ∧
    hexval 0x40#8 = none ∧ hexval 0x47#8 = none ∧ hexval 0x60#8 = none ∧ hexval 0x67#8 = none := by decide

theorem witness_BinvalIsTheBinaryDigits : (0x32#8 : Char8) ≠ 0x30#8 ∧ (0x32#8 : Char8) ≠ 0x31#8 := by decide

/-- The hex texts of the shortest and the longest LEN, and each kind of text that is none. -/
theorem witness_hex_texts :
    HexTextIn allOnes 1 ∧ HexTextIn allOnes 28 ∧ NoHexTextIn allOnes 0 ∧ NoHexTextIn allOnes 29 ∧
    NoHexTextIn State.reset 1 := by decide +kernel

theorem witness_HexTextExpandsEachDigit :
    HexTextIn allOnes 28 ∧ (27 < 28 ∧ 3 < 4 ∧ (allOnes.inBuf[27]?).bind hexval = some 1) ∧ NoHexTextIn allOnes 29 := by
  decide +kernel

theorem witness_Hex2binLoadsTheBitsOrRaises : HexTextIn allOnes 28 ∧ NoHexTextIn allOnes 29 := by decide +kernel

theorem witness_BinloadLoadsTheBitsOrRaises :
    BinTextIn allOnes 1 ∧ BinTextIn allOnes 112 ∧ NoBinTextIn allOnes 0 ∧ NoBinTextIn allOnes 113 ∧
    NoBinTextIn State.reset 1 := by decide +kernel

theorem witness_Bin2intGivesTheNumberOrRaises :
    (1#8 : BitVec 8) ≠ 0#8 ∧ blenInRange { State.reset with blen := 112#8 } ∧ State.reset.blen = 0#8 := by decide

theorem witness_Hex2intGivesTheNumberOrRaises : HexTextIn allOnes 1 ∧ NoHexTextIn allOnes 0 := by decide +kernel

theorem witness_Hex2binThenBin2intIsHex2int : HexTextIn allOnes 28 := by decide +kernel

theorem witness_BinloadThenBinstoreGivesTheTextBack : BinTextIn allOnes 112 := by decide +kernel

theorem witness_CompletedHex2binHasFourBitsADigit :
    ∃ t, exec (.hex2bin 28) allOnes = .next t ∧ t.err = .ok := ⟨_, rfl, by decide +kernel⟩

theorem witness_DfxGivesTheFirstFiveBitsOrRaises :
    (HexTextIn allOnes 2 ∧ 2 ≤ 2) ∧ (HexTextIn allOnes 28 ∧ 2 ≤ 28) ∧ HexTextIn allOnes 1 ∧ NoHexTextIn allOnes 0 := by
  decide +kernel

theorem witness_CompletedDfxIsTwoDigitsWorth :
    ∃ t, exec (.dfx 2) allOnes = .next t ∧ t.err = .ok := ⟨_, rfl, by decide +kernel⟩

theorem witness_DivideIsTheBitSerialDivision :
    (28 ≤ 28 ∧ 28 ≤ 112 ∧ 4 ≤ 28 - 24 ∧ 3 < 4 ∧ 28 ≤ 111) ∧ (28 ≤ 112 ∧ 112 ≤ 112 ∧ 88 ≤ 112 - 24 ∧ 87 < 88) := by decide

theorem witness_CrcchkGivesTheRemainderOrRaises :
    (HexTextIn allOnes 7 ∧ 7 ≤ 7) ∧ (HexTextIn allOnes 28 ∧ 7 ≤ 28) ∧ (HexTextIn allOnes 1 ∧ 1 ≤ 6) ∧
    (HexTextIn allOnes 6 ∧ 6 ≤ 6) ∧ NoHexTextIn allOnes 0 := by decide +kernel

theorem witness_CrcencGivesTheParityOrRaises :
    (HexTextIn allOnes 7 ∧ 7 ≤ 7) ∧ (HexTextIn allOnes 28 ∧ 7 ≤ 28) ∧ (HexTextIn allOnes 1 ∧ 1 ≤ 6) ∧
    (HexTextIn allOnes 6 ∧ 6 ≤ 6) ∧ NoHexTextIn allOnes 29 := by decide +kernel

theorem witness_CrcIsThePolynomialRemainder :
    (HexTextIn allOnes 7 ∧ 7 ≤ 7) ∧ (HexTextIn allOnes 28 ∧ 7 ≤ 28) := by decide +kernel

/-- "1000000" has parity 0xFFF409 (V25b); "1FFF409" carries it. -/
theorem witness_EncodedMessageChecksToZero :
    let s := withText [0x31, 0x30, 0x30, 0x30, 0x30, 0x30, 0x30]
    let s' := withText [0x31, 0x46, 0x46, 0x46, 0x34, 0x30, 0x39]
    HexTextIn s 7 ∧ 7 ≤ 7 ∧ ∃ t, exec (.crcenc 7) s = .next t ∧
      (∀ k : Fin 112, k.val < 7 - 6 → s'.inBuf[k] = s.inBuf[k]) ∧
      ∀ j, j < 6 → (s'.inBuf[7 - 6 + j]?).bind hexval = some (t.res.toNat >>> (20 - 4 * j) % 16) :=
  ⟨by decide +kernel, by decide, _, rfl, by decide +kernel, by decide +kernel⟩

/-- "0000000" checks to 0 and "0000001" is its flip of bit 27. -/
theorem witness_SingleBitFlipIsDetected :
    let s := withText [0x30, 0x30, 0x30, 0x30, 0x30, 0x30, 0x30]
    let s' := withText [0x30, 0x30, 0x30, 0x30, 0x30, 0x30, 0x31]
    HexTextIn s 7 ∧ HexTextIn s' 7 ∧ 7 ≤ 7 ∧ 27 < 4 * 7 ∧ (∃ t, exec (.crcchk 7) s = .next t ∧ t.res = 0#128) ∧
      ∀ j, j < 4 * 7 → hexBit s' j = (hexBit s j ^^ decide (j = 27)) :=
  ⟨by decide +kernel, by decide +kernel, by decide, by decide, ⟨_, rfl, by decide +kernel⟩, by decide +kernel⟩

/-- "1111111" XOR "1111111" is "0000000". -/
theorem witness_CrcIsLinear :
    let c := withText [0x30, 0x30, 0x30, 0x30, 0x30, 0x30, 0x30]
    HexTextIn allOnes 7 ∧ HexTextIn c 7 ∧ 7 ≤ 7 ∧
      ∀ j, j < 4 * 7 → hexBit c j = (hexBit allOnes j ^^ hexBit allOnes j) :=
  ⟨by decide +kernel, by decide +kernel, by decide, by decide +kernel⟩

theorem witness_CrcencIgnoresTheParityCharacters :
    let s' := withText [0x31, 0x46, 0x46, 0x46, 0x34, 0x30, 0x39]
    HexTextIn allOnes 7 ∧ HexTextIn s' 7 ∧ 7 ≤ 7 ∧ ∀ k : Fin 112, k.val < 7 - 6 → s'.inBuf[k] = allOnes.inBuf[k] :=
  ⟨by decide +kernel, by decide +kernel, by decide, by decide +kernel⟩

theorem witness_CrcchkIsCrcencXorTheParity :
    (HexTextIn allOnes 7 ∧ 7 ≤ 7) ∧ (HexTextIn allOnes 28 ∧ 7 ≤ 28) := by decide +kernel

/-- One input for each clause: absent, LEN 5 and 7, no hex text, inside a band ("200001"), outside every band ("111111"). -/
theorem witness_IcaochkClassifiesTheAddress :
    let inside := withText [0x32, 0x30, 0x30, 0x30, 0x30, 0x31]
    (5 ≠ 6 ∧ 7 ≠ 6) ∧ NoHexTextIn State.reset 6 ∧
    (HexTextIn inside 6 ∧ ∃ band ∈ bandTable, band.1 < hexNumber inside 0 6 ∧ hexNumber inside 0 6 < band.2) ∧
    (HexTextIn allOnes 6 ∧ ¬ ∃ band ∈ bandTable, band.1 < hexNumber allOnes 0 6 ∧ hexNumber allOnes 0 6 < band.2) :=
  ⟨by decide, by decide +kernel, by decide +kernel, by decide +kernel⟩

/-- "6F0000" is band 5's upper bound, "F00000" band 9's lower. -/
theorem witness_BandEndpointsAreAssigned :
    let hi5 := withText [0x36, 0x46, 0x30, 0x30, 0x30, 0x30]
    let lo9 := withText [0x46, 0x30, 0x30, 0x30, 0x30, 0x30]
    ((0x680000, 0x6F0000) ∈ bandTable ∧ HexTextIn hi5 6 ∧ hexNumber hi5 0 6 = 0x6F0000) ∧
    ((0xF00000, 0xFFFFFF) ∈ bandTable ∧ HexTextIn lo9 6 ∧ hexNumber lo9 0 6 = 0xF00000) :=
  ⟨by decide +kernel, by decide +kernel⟩

theorem witness_AssignedAddressesAreTheListedRanges : HexTextIn allOnes 6 := by decide +kernel

theorem witness_RaisingCommandChangesOnlyErr :
    ∃ t, execute 0x00000000#32 State.reset = .next t ∧ t.err ≠ .ok := ⟨_, rfl, by decide⟩

/-- One next state for each code. -/
theorem witness_ErrorCodesHaveExactlyTheirCauses :
    (∃ t, execute 0x00000000#32 State.reset = .next t ∧ t.err = .illegalCommand) ∧
    (∃ t, exec .bin2int State.reset = .next t ∧ t.err = .invalidInput) ∧
    (∃ t, exec (.crcchk 6) allOnes = .next t ∧ t.err = .shortMessage) ∧
    (∃ t, exec .binstore State.reset = .next t ∧ t.err = .ok) :=
  ⟨⟨_, rfl, by decide⟩, ⟨_, rfl, by decide +kernel⟩, ⟨_, rfl, by decide +kernel⟩, ⟨_, rfl, by decide +kernel⟩⟩

theorem witness_CommandsWriteOnlyTheirElements :
    (∃ t, exec (.hex2bin 28) allOnes = .next t) ∧ (∃ t, exec .binstore allOnes = .next t) ∧
    (∃ t, exec (.crcchk 28) allOnes = .next t) := ⟨⟨_, rfl⟩, ⟨_, rfl⟩, ⟨_, rfl⟩⟩

/-- IN of the two states agrees on its first character only. -/
theorem witness_CommandsReadOnlyTheirText :
    ∀ k : Fin 112, k.val < (Instr.hex2bin 1).len → (withText [0x31]).inBuf[k] = allOnes.inBuf[k] := by decide +kernel

/-- "AF" and "af". -/
theorem witness_CommandsSeeOnlyDigitValues :
    (∀ len, Instr.hex2bin 2 ≠ .binload len) ∧
    ∀ k : Fin 112, hexval (withText [0x41, 0x46]).inBuf[k] = hexval (withText [0x61, 0x66]).inBuf[k] :=
  ⟨by simp, by decide +kernel⟩

theorem witness_RepeatedCommandGivesTheSameResults :
    ∃ t, execute 0x00001C07#32 allOnes = .next t := ⟨_, rfl⟩

theorem witness_BlankInputMakesTextCommandsRaise : State.reset.inBuf = State.reset.inBuf := rfl

theorem witness_WorkIsNeverObservable : SameButWork allOnes { allOnes with work := 5#112, workSeq := 9 } := rfl

/-- A read-only offset at each end of each mapped range. -/
theorem witness_ReadOnlyWritesAreIgnored :
    ∀ a ∈ [0x000, 0x008, 0x02C, 0x200, 0x26C], Mapped a ∧ a ≠ 0x004 ∧ ¬ (0x100 ≤ a ∧ a ≤ 0x16C) := by decide

/-- Both clauses at the edges of the map. -/
theorem witness_OnlyAlignedMappedWordsAreAccepted :
    (∀ a ∈ [0x000, 0x02C, 0x100, 0x16C, 0x200, 0x26C], Mapped a) ∧
    (∀ a ∈ [0x002, 0x030, 0x0FC, 0x170, 0x1FC, 0x270, 0xFFC], ¬ Mapped a) ∧ ¬ (Width.half = .word ∧ Mapped 0) := by
  decide

theorem witness_ReadAfterCommandSeesItsResults : ∃ t, execute 0x00000609#32 allOnes = .next t := ⟨_, rfl⟩

theorem witness_BitWordsAreMostSignificantFirst :
    (0 / 32 = 0 ∧ 31 / 32 = 0 ∧ 32 / 32 = 1 ∧ 111 / 32 = 3) ∧ (3 : Fin 4) = 3 := by decide

theorem witness_CharacterWordsAreLittleEndian : 0 / 4 = 0 ∧ 3 / 4 = 0 ∧ 4 / 4 = 1 ∧ 111 / 4 = 27 := by decide

theorem witness_EveryStepKeepsTheInvariant : Inv State.reset ∧ ∃ t, step State.reset = .next t :=
  ⟨⟨by decide, by decide +kernel, by decide, ⟨0, by decide +kernel⟩⟩, _, rfl⟩

theorem witness_HostStatementsExpandToAccesses : 0 ≤ 255 ∧ 255 ≤ 255 := by decide

theorem witness_LoadstrWritesOnlyTheWordsItReaches :
    ([] : List Char8).length ≤ 112 ∧ (List.replicate 112 0x31#8).length ≤ 112 ∧ 27 < (112 + 3) / 4 := by decide

end Sys2Proof.Tests
end

section
/-! The state layer of the provers' text: what a command can do to the state, said once for all nine commands (R20), and the
rules of a step that serves one access (R53, R61). -/

namespace Sys2Proof.Machine

open Spec

/-! ## What a command can do -/

theorem length_bitOperand_le (s : State) : s.bitOperand.length ≤ 112 := by
  rw [State.bitOperand, List.length_take, length_seqOf]
  omega

theorem four_mul_le_of_hexText {s : State} {len : Nat} {seq : List Bool} (h : s.hexText len = some seq) :
    4 * len ≤ 112 := by
  obtain ⟨_, h28, _⟩ := (hexText_eq_some_iff s len seq).mp h
  omega

theorem length_hexText_le {s : State} {len : Nat} {seq : List Bool} (h : s.hexText len = some seq) :
    seq.length ≤ 112 :=
  length_hexText h ▸ four_mul_le_of_hexText h

theorem length_binText_le {s : State} {len : Nat} {seq : List Bool} (h : s.binText len = some seq) :
    seq.length ≤ 112 := by
  obtain ⟨_, h112, _⟩ := (binText_eq_some_iff s len seq).mp h
  rwa [length_binText h]

/-- No number a command computes is wider than NBITS (R13). -/
theorem uint_lt_two_pow_112 {seq : List Bool} (h : seq.length ≤ 112) : uint seq < 2 ^ 112 :=
  (uint_lt seq).trans_le (Nat.pow_le_pow_right (by decide) h)

theorem remainder_lt (w : BitBuf) (L : Nat) : remainder w L < 2 ^ 112 :=
  uint_lt_two_pow_112 (by rw [length_slice, length_seqOf]; omega)

/-- What command i can make of a state: it raises an error, loads BITS and BLEN, stores OUT, or computes RES, the CRC commands
in WORK (the "written by" column of R20, and R213). -/
inductive Effect (i : Instr) (s : State) : State → Prop where
  | raise (e : ErrCode) (he : e = .invalidInput ∨ e = .shortMessage) : Effect i s (s.raise e)
  | load (seq : List Bool) (hi : ∃ len, i = .hex2bin len ∨ i = .binload len) (hseq : seq.length ≤ 112) :
      Effect i s (s.setBits seq).complete
  | store (text : CharBuf) (hi : i = .binstore) (htext : text = storedText s) : Effect i s (s.setOut text).complete
  | number (v : Nat) (hload : ∀ len, i ≠ .hex2bin len ∧ i ≠ .binload len) (hstore : i ≠ .binstore) (hv : v < 2 ^ 112) :
      Effect i s (s.setRes v).complete
  | crc (w : BitBuf) (L : Nat) (hi : ∃ len, i = .crcchk len ∨ i = .crcenc len) : Effect i s (s.finishCrc w L)

/-- Every command completes, with one of the effects. -/
theorem exec_effect (i : Instr) (s : State) : ∃ t, exec i s = .next t ∧ Effect i s t := by
  cases i with
  | hex2bin len =>
    obtain ⟨-, he⟩ | ⟨seq, hs, he⟩ := execHex2bin_cases len s
    · exact ⟨_, he, .raise _ (.inl rfl)⟩
    · exact ⟨_, he, .load _ ⟨len, .inl rfl⟩ (length_hexText_le hs)⟩
  | binload len =>
    obtain ⟨-, he⟩ | ⟨seq, hs, he⟩ := execBinload_cases len s
    · exact ⟨_, he, .raise _ (.inl rfl)⟩
    · exact ⟨_, he, .load _ ⟨len, .inr rfl⟩ (length_binText_le hs)⟩
  | binstore => exact ⟨_, rfl, .store _ rfl rfl⟩
  | bin2int =>
    obtain ⟨-, he⟩ | ⟨-, he⟩ := execBin2int_cases s
    · exact ⟨_, he, .raise _ (.inl rfl)⟩
    · exact ⟨_, he, .number _ (by simp) (by simp) (uint_lt_two_pow_112 (length_bitOperand_le s))⟩
  | hex2int len =>
    obtain ⟨-, he⟩ | ⟨seq, hs, he⟩ := execHex2int_cases len s
    · exact ⟨_, he, .raise _ (.inl rfl)⟩
    · exact ⟨_, he, .number _ (by simp) (by simp) (uint_lt_two_pow_112 (length_hexText_le hs))⟩
  | dfx len =>
    obtain ⟨-, he⟩ | ⟨seq, -, -, he⟩ | ⟨seq, -, -, he⟩ := execDfx_cases len s
    · exact ⟨_, he, .raise _ (.inl rfl)⟩
    · exact ⟨_, he, .raise _ (.inr rfl)⟩
    · exact ⟨_, he, .number _ (by simp) (by simp) (uint_lt_two_pow_112 (by rw [length_slice]; omega))⟩
  | crcchk len =>
    obtain ⟨-, he⟩ | ⟨seq, -, -, he⟩ | ⟨seq, -, -, he⟩ := execCrcchk_cases len s
    · exact ⟨_, he, .raise _ (.inl rfl)⟩
    · exact ⟨_, he, .raise _ (.inr rfl)⟩
    · exact ⟨_, he, .crc _ _ ⟨len, .inl rfl⟩⟩
  | crcenc len =>
    obtain ⟨-, he⟩ | ⟨seq, -, -, he⟩ | ⟨seq, -, -, he⟩ := execCrcenc_cases len s
    · exact ⟨_, he, .raise _ (.inl rfl)⟩
    · exact ⟨_, he, .raise _ (.inr rfl)⟩
    · exact ⟨_, he, .crc _ _ ⟨len, .inr rfl⟩⟩
  | icaochk abs len =>
    exact ⟨_, rfl, .number _ (by simp) (by simp) ((Bool.toNat_le _).trans_lt (by decide))⟩

/-- The inversion of `exec`: an answer is one of the effects. -/
theorem effect_of_exec {i : Instr} {s t : State} (h : exec i s = .next t) : Effect i s t := by
  obtain ⟨u, hu, heff⟩ := exec_effect i s
  rw [h] at hu
  cases hu
  exact heff

/-- The elements that no command writes: IN and the model's own fields (R20). -/
theorem Effect.frame {i : Instr} {s t : State} (h : Effect i s t) :
    t.inBuf = s.inBuf ∧ t.pending = s.pending ∧ t.replies = s.replies ∧ t.workSeq = s.workSeq := by
  cases h <;> exact ⟨rfl, rfl, rfl, rfl⟩

/-- BITS and BLEN are written by the two loading commands only. -/
theorem Effect.bits_eq {i : Instr} {s t : State} (h : Effect i s t) (hi : ∀ len, i ≠ .hex2bin len ∧ i ≠ .binload len) :
    t.bits = s.bits ∧ t.blen = s.blen := by
  cases h with
  | load seq hload =>
    obtain ⟨len, hload⟩ := hload
    exact absurd hload (by simp [hi len])
  | _ => exact ⟨rfl, rfl⟩

/-- OUT is written by BINSTORE only (R29). -/
theorem Effect.outBuf_eq {i : Instr} {s t : State} (h : Effect i s t) (hi : i ≠ .binstore) : t.outBuf = s.outBuf := by
  cases h with
  | store text hstore => exact absurd hstore hi
  | _ => rfl

/-- RES is not written by the loading and storing commands. -/
theorem Effect.res_eq {i : Instr} {s t : State} (h : Effect i s t)
    (hi : (∃ len, i = .hex2bin len ∨ i = .binload len) ∨ i = .binstore) : t.res = s.res := by
  cases h with
  | number v hload hstore =>
    obtain ⟨len, hi⟩ | hi := hi
    · exact absurd hi (by simp [hload len])
    · exact absurd hi hstore
  | crc w L hcrc =>
    obtain ⟨len, rfl | rfl⟩ := hcrc <;> simp at hi
  | _ => rfl

/-- WORK is written by the CRC commands only (C9). -/
theorem Effect.work_eq {i : Instr} {s t : State} (h : Effect i s t) (hi : ∀ len, i ≠ .crcchk len ∧ i ≠ .crcenc len) :
    t.work = s.work := by
  cases h with
  | crc w L hcrc =>
    obtain ⟨len, hcrc⟩ := hcrc
    exact absurd hcrc (by simp [hi len])
  | _ => rfl

theorem execute_of_decode_ok {w : Word} {i : Instr} (h : decode w = .ok i) (s : State) : execute w s = exec i s := by
  rw [execute, h]

theorem execute_of_decode_error {w : Word} {e : Rejection} (h : decode w = .error e) (s : State) :
    execute w s = .next (s.raise .illegalCommand) := by
  rw [execute, h]

/-! ## What a step does -/

@[simp] theorem onNext_onNext (o : Host.Outcome State Fault Refusal) (f g : State → State) :
    onNext (onNext o f) g = onNext o fun t => g (f t) := by
  cases o <;> rfl

theorem step_of_pending_nil {s : State} (h : s.pending = []) : step s = .next s.forgetWork := by
  rw [step, h]

theorem step_of_pending_cons {s : State} {e : HostEvent} {rest : List HostEvent} (h : s.pending = e :: rest) :
    step s = onNext (serve e { s with pending := rest }) State.forgetWork := by
  rw [step, h]

/-- A step that faces an access serves it, then forgets WORK. -/
theorem step_facing_access (s : State) (a : Access) (rest : List HostEvent) :
    step (facing s (.access a) rest) = onNext (serveAccess a { s with pending := rest }) State.forgetWork := rfl

@[simp] theorem accepted_offset_word (r : Register) : accepted r.offset .word = some r := registerAt_offset r

/-- A step that faces an accepted write: the register's write, the OK reply, and WORK forgotten (R22, R54, R55). -/
theorem step_facing_write_offset (s : State) (r : Register) (v : Word) (rest : List HostEvent) :
    step (facing s (.access (.write r.offset .word v)) rest) =
      onNext (writeRegister r v { s with pending := rest }) fun t => replied t ⟨.okay, none⟩ := by
  simp only [step_facing_access, serveAccess, accepted_offset_word, onNext_onNext]
  rfl

/-- A step that faces an accepted read: the reply with the register's value, and WORK forgotten (R53). -/
theorem step_facing_read_offset (s : State) (r : Register) (rest : List HostEvent) :
    step (facing s (.access (.read r.offset .word)) rest) =
      .next (replied { s with pending := rest } ⟨.okay, some (readRegister r s)⟩) := by
  simp only [step_facing_access, serveAccess_read, accepted_offset_word, onNext_next]
  cases r <;> rfl

end Sys2Proof.Machine
end

section
/-! R170, R30: the bits of WORK at L and beyond never reach the first L bits of a division of length L, so the remainder of a
message does not depend on what WORK held before the message was loaded. -/

namespace Sys2Proof.Machine

/-- Two sequences with the same first L elements. -/
def AgreeBelow (L : Nat) (v w : BitBuf) : Prop := ∀ k < L, v.getMsbD k = w.getMsbD k

theorem divideStep_agreeBelow {L i : Nat} {v w : BitBuf} (hL : L ≤ 112) (hi : i + 25 ≤ L) (h : AgreeBelow L v w) :
    AgreeBelow L (divideStep v i) (divideStep w i) := by
  intro k hk
  unfold divideStep
  rw [h i (by omega)]
  split
  · rw [getMsbD_xorWindow v (by omega), getMsbD_xorWindow w (by omega), h k hk]
  · exact h k hk

theorem foldl_divideStep_agreeBelow {L n : Nat} {v w : BitBuf} (hL : L ≤ 112) (hn : n ≤ L - 24) (h : AgreeBelow L v w) :
    AgreeBelow L ((List.range n).foldl divideStep v) ((List.range n).foldl divideStep w) := by
  induction n with
  | zero => exact h
  | succ n ih =>
    simp only [List.range_succ, List.foldl_append, List.foldl_cons, List.foldl_nil]
    exact divideStep_agreeBelow hL (by omega) (ih (by omega))

theorem divide_agreeBelow {L : Nat} {v w : BitBuf} (hL : L ≤ 112) (h : AgreeBelow L v w) :
    AgreeBelow L (divide v L) (divide w L) :=
  foldl_divideStep_agreeBelow hL le_rfl h

theorem remainder_eq_of_agreeBelow {L : Nat} {v w : BitBuf} (h : AgreeBelow L v w) : remainder v L = remainder w L := by
  have htake : (seqOf v).take L = (seqOf w).take L :=
    List.ext_getElem (by simp) fun k hk _ => by
      simp only [List.length_take, length_seqOf] at hk
      simpa using h k (by omega)
  rw [remainder, remainder, slice, slice, htake]

/-- A loaded message covers the first elements of WORK (R163). -/
theorem loadPrefix_agreeBelow (seq : List Bool) (v w : BitBuf) :
    AgreeBelow seq.length (loadPrefix v seq) (loadPrefix w seq) := by
  intro k hk
  simp [loadPrefix, hk]

theorem loadPrefix_agreeBelow_of_hexText {s : State} {len : Nat} {seq : List Bool} (h : s.hexText len = some seq)
    (v w : BitBuf) : AgreeBelow (4 * len) (loadPrefix v seq) (loadPrefix w seq) :=
  length_hexText h ▸ loadPrefix_agreeBelow seq v w

theorem clearRange_agreeBelow {L : Nat} {v w : BitBuf} (h : AgreeBelow L v w) (a b : Nat) :
    AgreeBelow L (clearRange v a b) (clearRange w a b) := by
  intro k hk
  simp [clearRange, h k hk]

end Sys2Proof.Machine
end

section
/-! What a command does not read: IN past its text (R28), what WORK held (R30), and the model's counter (log 2). -/

namespace Sys2Proof.Machine

/-- The state with IN, WORK and the model's counter replaced. -/
def State.withUnread (s : State) (buf : CharBuf) (w : BitBuf) (n : Nat) : State :=
  { s with inBuf := buf, work := w, workSeq := n }

theorem storedText_withUnread (s : State) (buf : CharBuf) (w : BitBuf) (n : Nat) :
    storedText (s.withUnread buf w n) = storedText s := rfl

variable {s : State} {buf : CharBuf} {w : BitBuf} {n : Nat}

theorem hexText_eq_of_digits_eq {t : State} {len : Nat}
    (h : digits hexval (t.inText len) = digits hexval (s.inText len)) : t.hexText len = s.hexText len := by
  rw [State.hexText, State.hexText, h]

theorem binText_eq_of_inText_eq {t : State} {len : Nat} (h : t.inText len = s.inText len) :
    t.binText len = s.binText len := by
  rw [State.binText, State.binText, h]

theorem icaoAssigned_eq_of_digits_eq {t : State} {len : Nat}
    (h : digits hexval (t.inText len) = digits hexval (s.inText len)) (abs : Bool) :
    t.icaoAssigned abs len = s.icaoAssigned abs len := by
  by_cases h6 : len = 6
  · subst h6
    simp [State.icaoAssigned, h]
  · simp [State.icaoAssigned, h6]

/-- From s an outcome o, and from s with the unread parts replaced the outcome o' that differs in them only; in WORK only where
it was replaced. -/
def SameUpToUnread (s : State) (buf : CharBuf) (w : BitBuf) (n : Nat) (o o' : Host.Outcome State Fault Refusal) : Prop :=
  ∃ t w', o = .next t ∧ o' = .next (t.withUnread buf w' n) ∧ (w = s.work → w' = t.work)

namespace SameUpToUnread

/-- A result that leaves WORK alone. -/
theorem of_work_eq {t : State} (h : t.work = s.work) :
    SameUpToUnread s buf w n (.next t) (.next (t.withUnread buf w n)) :=
  ⟨t, w, rfl, rfl, fun hw => hw.trans h.symm⟩

theorem ite {c : Prop} [Decidable c] {a a' b b' : Host.Outcome State Fault Refusal} (ha : SameUpToUnread s buf w n a a')
    (hb : SameUpToUnread s buf w n b b') :
    SameUpToUnread s buf w n (if c then a else b) (if c then a' else b') := by
  split
  · exact ha
  · exact hb

/-- The end of a CRC command whose loaded WORK, v or v', has the same first L elements. -/
theorem finishCrc {L : Nat} {v v' : BitBuf} (hL : L ≤ 112) (h : AgreeBelow L v v') (hw : w = s.work → v' = v) :
    SameUpToUnread s buf w n (.next (s.finishCrc v L)) (.next ((s.withUnread buf w n).finishCrc v' L)) := by
  refine ⟨_, divide v' L, rfl, ?_, fun he => hw he ▸ rfl⟩
  simp only [State.finishCrc, ← remainder_eq_of_agreeBelow (divide_agreeBelow hL h)]
  rfl

end SameUpToUnread

/-- A command looks at IN only through its text's hex digits, BINLOAD through its text, and at nothing of WORK: with the rest
replaced it does the same, up to WORK, and WORK too is the same where only IN was replaced. -/
theorem exec_sameUpToUnread (i : Instr)
    (hhex : digits hexval ((s.withUnread buf w n).inText i.len) = digits hexval (s.inText i.len))
    (hbin : ∀ len, i = .binload len → (s.withUnread buf w n).inText len = s.inText len) :
    SameUpToUnread s buf w n (exec i s) (exec i (s.withUnread buf w n)) := by
  have htext {len : Nat} (hlen : i.len = len) : (s.withUnread buf w n).hexText len = s.hexText len :=
    hexText_eq_of_digits_eq (hlen ▸ hhex)
  cases i with
  | hex2bin len =>
    simp only [exec, execHex2bin, htext (len := len) rfl]
    cases s.hexText len with
    | none => exact .of_work_eq rfl
    | some seq => exact .of_work_eq rfl
  | binload len =>
    simp only [exec, execBinload, binText_eq_of_inText_eq (hbin len rfl)]
    cases s.binText len with
    | none => exact .of_work_eq rfl
    | some seq => exact .of_work_eq rfl
  | binstore =>
    simp only [exec, execBinstore, storedText_withUnread]
    exact .of_work_eq (by simp)
  | bin2int => exact .ite (.of_work_eq rfl) (.of_work_eq rfl)
  | hex2int len =>
    simp only [exec, execHex2int, htext (len := len) rfl]
    cases s.hexText len with
    | none => exact .of_work_eq rfl
    | some seq => exact .of_work_eq rfl
  | dfx len =>
    simp only [exec, execDfx, htext (len := len) rfl]
    cases s.hexText len with
    | none => exact .of_work_eq rfl
    | some seq => exact .ite (.of_work_eq rfl) (.of_work_eq rfl)
  | crcchk len =>
    simp only [exec, execCrcchk, htext (len := len) rfl]
    cases hs : s.hexText len with
    | none => exact .of_work_eq rfl
    | some seq =>
      have hload := loadPrefix_agreeBelow_of_hexText hs s.work w
      exact .ite (.of_work_eq rfl) (.finishCrc (four_mul_le_of_hexText hs) hload (by rintro rfl; rfl))
  | crcenc len =>
    simp only [exec, execCrcenc, htext (len := len) rfl]
    cases hs : s.hexText len with
    | none => exact .of_work_eq rfl
    | some seq =>
      have hload := clearRange_agreeBelow (loadPrefix_agreeBelow_of_hexText hs s.work w) (4 * len - 24) (4 * len)
      exact .ite (.of_work_eq rfl) (.finishCrc (four_mul_le_of_hexText hs) hload (by rintro rfl; rfl))
  | icaochk abs len =>
    simp only [exec, execIcaochk, icaoAssigned_eq_of_digits_eq (len := len) hhex]
    exact .of_work_eq rfl

end Sys2Proof.Machine
end

section
/-! O45: the relation "differ only in WORK and the model's counter" is kept by every layer of a step, from a command to the
step itself (R30, R220). -/

namespace Sys2Proof.Machine

open Spec

/-- The states that differ from s at most in WORK and the counter, written as updates of s. -/
theorem sameButWork_iff {s t : State} : SameButWork s t ↔ ∃ w n, t = { s with work := w, workSeq := n } := by
  constructor
  · intro h
    exact ⟨_, _, h⟩
  · rintro ⟨w, n, rfl⟩
    rfl

/-- Two outcomes that go on, to states that differ at most in WORK and the counter. -/
def SameOutcome (o o' : Host.Outcome State Fault Refusal) : Prop :=
  ∃ t t', o = .next t ∧ o' = .next t' ∧ SameButWork t t'

theorem SameOutcome.onNext {o o' : Host.Outcome State Fault Refusal} (h : SameOutcome o o') {f : State → State}
    (hf : ∀ t t', SameButWork t t' → SameButWork (f t) (f t')) : SameOutcome (onNext o f) (onNext o' f) := by
  obtain ⟨t, t', rfl, rfl, htt⟩ := h
  exact ⟨_, _, rfl, rfl, hf t t' htt⟩

theorem sameButWork_answer {s s' : State} (h : SameButWork s s') (r : Reply) : SameButWork (s.answer r) (s'.answer r) := by
  obtain ⟨w, n, rfl⟩ := sameButWork_iff.mp h
  rfl

theorem sameButWork_forgetWork {s s' : State} (h : SameButWork s s') : SameButWork s.forgetWork s'.forgetWork := by
  obtain ⟨w, n, rfl⟩ := sameButWork_iff.mp h
  rfl

theorem readRegister_eq_of_sameButWork {s s' : State} (h : SameButWork s s') (r : Register) :
    readRegister r s' = readRegister r s := by
  obtain ⟨w, n, rfl⟩ := sameButWork_iff.mp h
  cases r <;> rfl

theorem exec_sameOutcome {s s' : State} (h : SameButWork s s') (i : Instr) : SameOutcome (exec i s) (exec i s') := by
  obtain ⟨w, n, rfl⟩ := sameButWork_iff.mp h
  obtain ⟨t, w', ht, ht', -⟩ := exec_sameUpToUnread (s := s) (buf := s.inBuf) (w := w) (n := n) i rfl fun _ _ => rfl
  obtain ⟨hin, -⟩ := (effect_of_exec ht).frame
  refine ⟨t, _, ht, ht', sameButWork_iff.mpr ⟨w', n, ?_⟩⟩
  rw [← hin]
  rfl

theorem execute_sameOutcome {s s' : State} (h : SameButWork s s') (w : Word) :
    SameOutcome (execute w s) (execute w s') := by
  cases hd : decode w with
  | ok i =>
    rw [execute_of_decode_ok hd, execute_of_decode_ok hd]
    exact exec_sameOutcome h i
  | error e =>
    rw [execute_of_decode_error hd, execute_of_decode_error hd]
    obtain ⟨v, n, rfl⟩ := sameButWork_iff.mp h
    exact ⟨_, _, rfl, rfl, rfl⟩

theorem writeRegister_sameOutcome {s s' : State} (h : SameButWork s s') (r : Register) (v : Word) :
    SameOutcome (writeRegister r v s) (writeRegister r v s') := by
  cases r with
  | cmd => exact execute_sameOutcome h v
  | inw k =>
    obtain ⟨w, n, rfl⟩ := sameButWork_iff.mp h
    exact ⟨_, _, rfl, rfl, rfl⟩
  | _ => exact ⟨_, _, rfl, rfl, h⟩

theorem serveAccess_sameOutcome {s s' : State} (h : SameButWork s s') (a : Access) :
    SameOutcome (serveAccess a s) (serveAccess a s') := by
  cases a with
  | read off width =>
    rw [serveAccess_read, serveAccess_read]
    simp only [readRegister_eq_of_sameButWork h]
    exact ⟨_, _, rfl, rfl, sameButWork_answer h _⟩
  | write off width v =>
    simp only [serveAccess]
    cases accepted off width with
    | none => exact ⟨_, _, rfl, rfl, sameButWork_answer h _⟩
    | some r => exact (writeRegister_sameOutcome h r v).onNext fun _ _ ht => sameButWork_answer ht _

theorem serve_sameOutcome {s s' : State} (h : SameButWork s s') (e : HostEvent) :
    SameOutcome (serve e s) (serve e s') := by
  cases e with
  | access a => exact serveAccess_sameOutcome h a
  | reset a =>
    obtain ⟨w, n, rfl⟩ := sameButWork_iff.mp h
    exact ⟨_, _, rfl, rfl, rfl⟩

theorem step_sameOutcome {s s' : State} (h : SameButWork s s') : SameOutcome (step s) (step s') := by
  have hpending : s'.pending = s.pending := by rw [h]
  cases hp : s.pending with
  | nil =>
    rw [step_of_pending_nil hp, step_of_pending_nil (hpending.trans hp)]
    exact ⟨_, _, rfl, rfl, sameButWork_forgetWork h⟩
  | cons e rest =>
    rw [step_of_pending_cons hp, step_of_pending_cons (hpending.trans hp)]
    have hserved : SameButWork { s with pending := rest } { s' with pending := rest } := by
      obtain ⟨w, n, rfl⟩ := sameButWork_iff.mp h
      rfl
    exact (serve_sameOutcome hserved e).onNext fun _ _ ht => sameButWork_forgetWork ht

/-- Settles O45: no layer of a step lets WORK reach anything else. -/
theorem workIsNeverObservable : Obligations.WorkIsNeverObservable := fun _ _ h => step_sameOutcome h

end Sys2Proof.Machine
end

section
/-! O56 and O55: the invariant of R13, R25, R26 and R29. -/

namespace Sys2Proof.Machine

/-- BITS is zero past the loaded text, and BLEN is the text's length (R25, R26). -/
theorem setBits_bitsClear (s : State) {seq : List Bool} (h : seq.length ≤ 112) :
    blenInRange (s.setBits seq) ∧ bitsClearPastBlen (s.setBits seq) := by
  have hlen : (s.setBits seq).blen.toNat = seq.length := by
    rw [State.setBits_blen, BitVec.toNat_ofNat]
    omega
  refine ⟨hlen.trans_le h, fun k hk => ?_⟩
  rw [hlen] at hk
  simp [hk]

theorem setRes_resInRange (s : State) {v : Nat} (h : v < 2 ^ 112) : resInRange (s.setRes v) := by
  rw [resInRange, State.setRes_res, BitVec.toNat_ofNat]
  omega

theorem storedChar_of_lt {s : State} {k : Nat} (h : k < s.blen.toNat) :
    storedChar s k = 0x30#8 ∨ storedChar s k = 0x31#8 := by
  rw [storedChar, if_pos h]
  cases s.bits.getMsbD k
  · exact .inl rfl
  · exact .inr rfl

/-- BINSTORE leaves BLEN digits in OUT, with 0x00 behind them (R112). -/
theorem setOut_outIsText {s : State} (h : blenInRange s) : outIsText (s.setOut (storedText s)) := by
  refine ⟨⟨s.blen.toNat, by omega⟩, fun k => ?_⟩
  have hk : (s.setOut (storedText s)).outBuf[k] = storedChar s k.val := by simp [storedText]
  rw [hk]
  split
  case isTrue hlt => exact storedChar_of_lt hlt
  case isFalse hge => exact if_neg hge

theorem Effect.inv {i : Instr} {s t : State} (h : Effect i s t) (hs : Inv s) : Inv t := by
  obtain ⟨hblen, hbits, hres, hout⟩ := hs
  cases h with
  | raise e => exact ⟨hblen, hbits, hres, hout⟩
  | load seq _ hseq =>
    obtain ⟨hblen', hbits'⟩ := setBits_bitsClear s hseq
    exact ⟨hblen', hbits', hres, hout⟩
  | store text _ htext => exact ⟨hblen, hbits, hres, htext ▸ setOut_outIsText hblen⟩
  | number v _ _ hv => exact ⟨hblen, hbits, setRes_resInRange s hv, hout⟩
  | crc w L => exact ⟨hblen, hbits, setRes_resInRange (s.setWork (divide w L)) (remainder_lt _ L), hout⟩

theorem execute_inv {w : Word} {s t : State} (h : execute w s = .next t) (hs : Inv s) : Inv t := by
  cases hd : decode w with
  | ok i => exact (effect_of_exec (execute_of_decode_ok hd s ▸ h)).inv hs
  | error e =>
    rw [execute_of_decode_error hd] at h
    cases h
    exact hs

theorem serveAccess_inv {a : Access} {s t : State} (h : serveAccess a s = .next t) (hs : Inv s) : Inv t := by
  cases a with
  | read off width =>
    rw [serveAccess_read] at h
    cases h
    exact hs
  | write off width v =>
    obtain ⟨-, he⟩ | ⟨-, he⟩ | ⟨k, -, he⟩ | ⟨r, -, -, -, he⟩ := serveAccess_write off width v s
    · cases he.symm.trans h
      exact hs
    · obtain ⟨u, hu, rfl⟩ := (onNext_eq_next_iff _ _ _).mp (he.symm.trans h)
      exact (execute_inv hu hs : Inv u)
    · cases he.symm.trans h
      exact hs
    · cases he.symm.trans h
      exact hs

/-- Settles O55: every register is zero and OUT is the empty text. -/
theorem invariantHoldsAtReset : Obligations.InvariantHoldsAtReset :=
  ⟨by decide, fun k _ => by simp, by decide, 0, fun k => by simp⟩

theorem serve_inv {e : HostEvent} {s t : State} (h : serve e s = .next t) (hs : Inv s) : Inv t := by
  cases e with
  | access a => exact serveAccess_inv h hs
  | reset a =>
    cases h
    exact invariantHoldsAtReset

/-- Settles O56: neither an event nor the forgetting of WORK leaves the invariant. -/
theorem everyStepKeepsTheInvariant : Obligations.EveryStepKeepsTheInvariant := by
  intro s t hs h
  cases hp : s.pending with
  | nil =>
    rw [step_of_pending_nil hp] at h
    cases h
    exact hs
  | cons e rest =>
    rw [step_of_pending_cons hp] at h
    obtain ⟨u, hu, rfl⟩ := (onNext_eq_next_iff _ _ _).mp h
    exact (serve_inv hu (show Inv { s with pending := rest } from hs) : Inv u)

end Sys2Proof.Machine
end

section
/-! The frames of a command: what it writes (O40) and what it reads of IN (O41). -/

namespace Sys2Proof.Machine

/-- Settles O40, element by element from the effect of the command. -/
theorem commandsWriteOnlyTheirElements : Obligations.CommandsWriteOnlyTheirElements := by
  intro i s t h
  have heff := effect_of_exec h
  obtain ⟨hin, hpending, hreplies, hseq⟩ := heff.frame
  exact ⟨hin, hpending, hreplies, hseq, heff.bits_eq, heff.outBuf_eq, heff.res_eq, heff.work_eq⟩

theorem inText_eq_of_agree {s t : State} {len : Nat} (h : ∀ k : Fin 112, k.val < len → t.inBuf[k] = s.inBuf[k]) :
    t.inText len = s.inText len :=
  List.ext_getElem (by simp) fun k hk hk' => by
    rw [getElem_inText, getElem_inText]
    rw [length_inText] at hk
    exact h ⟨k, by omega⟩ (by simp only; omega)

/-- Settles O41: the text of the command is the same, so all it does is. -/
theorem commandsReadOnlyTheirText : Obligations.CommandsReadOnlyTheirText := by
  intro i s buf h
  have htext : (s.withUnread buf s.work s.workSeq).inText i.len = s.inText i.len := inText_eq_of_agree h
  obtain ⟨t, w, ht, ht', hwork⟩ := exec_sameUpToUnread i (congrArg (digits hexval) htext)
    (by rintro len rfl; exact htext)
  obtain ⟨-, -, -, hseq⟩ := (effect_of_exec ht).frame
  have hbuf : t.withUnread buf w s.workSeq = { t with inBuf := buf } := by
    rw [hwork rfl, ← hseq]
    rfl
  exact ⟨t, ht, ht'.trans (congrArg _ hbuf)⟩

end Sys2Proof.Machine
end

section
/-! The tier 1 statements on steps, reads and reset. -/

namespace Sys2Proof.Machine

open Spec

/-- Settles O6: CMD's write executes the word. -/
theorem stepRunsTheDecodedCommand : Obligations.StepRunsTheDecodedCommand := by
  intro s w rest
  have hstep := step_facing_write_offset s .cmd w rest
  constructor
  · intro i hd
    rw [writeRegister, execute_of_decode_ok hd] at hstep
    exact hstep
  · intro e hd
    rw [writeRegister, execute_of_decode_error hd] at hstep
    exact hstep

/-- Settles O46, from the value `readRegister` gives for each of the four registers. -/
theorem controlRegistersReadAsSpecified : Obligations.ControlRegistersReadAsSpecified := by
  intro s rest
  refine ⟨step_facing_read_offset s .gen rest, step_facing_read_offset s .cmd rest, ?_, ?_⟩
  · refine (step_facing_read_offset s .status rest).trans ?_
    rw [readRegister]
    cases s.err <;> rfl
  · rw [BitVec.ofNat_toNat]
    exact step_facing_read_offset s .blen rest

/-- Settles O54, register by register. -/
theorem resetStateHoldsTheResetValues : Obligations.ResetStateHoldsTheResetValues :=
  ⟨rfl, rfl, rfl, rfl, fun i => by simp, rfl, fun k => by simp, fun k => by simp, rfl⟩

end Sys2Proof.Machine
end

section
/-! The register map (R52): an offset is accepted exactly when it is a register's own. -/

namespace Sys2Proof.Machine

open Spec

/-- A mapped offset is aligned and lies in one of the three ranges of R52. -/
theorem registerAt_isSome_iff (off : Offset) : (registerAt off).isSome ↔ Mapped off.toNat := by
  simp only [registerAt]
  split_ifs <;> simp <;> omega

/-- `registerAt` inverts `Register.offset`: no two offsets name one register (R52). -/
theorem offset_of_registerAt {off : Offset} {r : Register} (h : registerAt off = some r) : r.offset = off := by
  apply BitVec.eq_of_toNat_eq
  simp only [registerAt] at h
  split_ifs at h <;> cases h <;> simp [Register.offset] <;> omega

theorem exists_offset_eq_of_mapped {off : Offset} (h : Mapped off.toNat) : ∃ r : Register, r.offset = off := by
  obtain ⟨r, hr⟩ := Option.isSome_iff_exists.mp ((registerAt_isSome_iff off).mpr h)
  exact ⟨r, offset_of_registerAt hr⟩

/-- Any other access gets no register (R51). -/
theorem accepted_eq_none {off : Offset} {width : Width} (h : ¬ (width = .word ∧ Mapped off.toNat)) :
    accepted off width = none := by
  rw [← Option.not_isSome_iff_eq_none, accepted_isSome_iff, registerAt_isSome_iff]
  exact h

theorem offset_inw_mem_range (k : Fin 28) :
    0x100 ≤ (Register.inw k).offset.toNat ∧ (Register.inw k).offset.toNat ≤ 0x16C := by
  simp [Register.offset]
  omega

end Sys2Proof.Machine
end

section
/-! O9, O51 and O52: what serving one access does to the queue, the replies and the rest of the state (R51, R55, R61, R211). -/

namespace Sys2Proof.Machine

open Spec

/-- Executing a word goes on and leaves the queue and the replies alone (R20, R87). -/
theorem execute_keeps_queue (w : Word) (s : State) :
    ∃ t, execute w s = .next t ∧ t.pending = s.pending ∧ t.replies = s.replies := by
  cases hd : decode w with
  | ok i =>
    obtain ⟨t, ht, heff⟩ := exec_effect i s
    obtain ⟨-, hpending, hreplies, -⟩ := heff.frame
    exact ⟨t, (execute_of_decode_ok hd s).trans ht, hpending, hreplies⟩
  | error e => exact ⟨_, execute_of_decode_error hd s, rfl, rfl⟩

theorem writeRegister_keeps_queue (r : Register) (v : Word) (s : State) :
    ∃ t, writeRegister r v s = .next t ∧ t.pending = s.pending ∧ t.replies = s.replies := by
  cases r with
  | cmd => exact execute_keeps_queue v s
  | _ => exact ⟨_, rfl, rfl, rfl⟩

/-- An access gets one reply, and the queue stays as it is while it is served. -/
theorem serveAccess_keeps_queue (a : Access) (s : State) :
    ∃ t r, serveAccess a s = .next t ∧ t.pending = s.pending ∧ t.replies = r :: s.replies := by
  cases a with
  | read off width => exact ⟨_, _, serveAccess_read off width s, rfl, rfl⟩
  | write off width v =>
    rw [serveAccess]
    cases accepted off width with
    | none => exact ⟨_, _, rfl, rfl, rfl⟩
    | some r =>
      obtain ⟨t, ht, hpending, hreplies⟩ := writeRegister_keeps_queue r v s
      exact ⟨_, _, congrArg (onNext · _) ht, hpending, congrArg _ hreplies⟩

/-- Settles O9: the step serves the access with the rest of the queue, and forgetting WORK touches neither list. -/
theorem eachStepServesTheOldestAccess : Obligations.EachStepServesTheOldestAccess := by
  intro s a rest
  obtain ⟨t, r, ht, hpending, hreplies⟩ := serveAccess_keeps_queue a { s with pending := rest }
  exact ⟨t.forgetWork, r, by rw [step_facing_access, ht, onNext_next], hpending, hreplies⟩

/-- Settles O51: an offset outside CMD and IN is that of a register whose write does nothing. -/
theorem readOnlyWritesAreIgnored : Obligations.ReadOnlyWritesAreIgnored := by
  intro s rest off v hmapped hcmd hinw
  obtain ⟨r, rfl⟩ := exists_offset_eq_of_mapped hmapped
  rw [step_facing_write_offset]
  cases r with
  | cmd => exact absurd rfl hcmd
  | inw k => exact absurd (offset_inw_mem_range k) hinw
  | _ => rfl

/-- Settles O52: by R52's map, an access is rejected before it reaches a register, or names one. -/
theorem onlyAlignedMappedWordsAreAccepted : Obligations.OnlyAlignedMappedWordsAreAccepted := by
  intro s rest off width v
  constructor
  · intro h
    have hnone := accepted_eq_none h
    constructor
    · rw [step_facing_access, serveAccess_read, hnone]
      rfl
    · rw [step_facing_access, serveAccess, hnone]
      rfl
  · rintro ⟨rfl, hmapped⟩
    obtain ⟨r, rfl⟩ := exists_offset_eq_of_mapped hmapped
    refine ⟨⟨_, step_facing_read_offset s r rest⟩, ?_⟩
    obtain ⟨t, ht, -, hreplies⟩ := writeRegister_keeps_queue r v { s with pending := rest }
    exact ⟨_, by rw [step_facing_write_offset, ht, onNext_next], congrArg _ hreplies⟩

end Sys2Proof.Machine
end

section
/-! O47 to O50: the bits and characters of the buffer words, read and written (R54, R56 to R58). -/

namespace Sys2Proof.Machine

/-- RESk's bit j (R58). -/
theorem getLsbD_resWord (res : Result) (k : Fin 4) {j : Nat} (hj : j < 32) :
    (resWord res k).getLsbD j = res.getLsbD (32 * k.val + j) := by
  simp [resWord, hj]

/-- BITWk's bit j, counted from the least significant end (R57). -/
theorem getLsbD_bitWord (bits : BitBuf) (k : Fin 4) {j : Nat} (hj : j < 32) :
    (bitWord bits k).getLsbD j = bits.getMsbD (32 * k.val + (31 - j)) := by
  have h31 : 32 - 1 - j < 32 := by omega
  rw [BitVec.getLsbD_eq_getMsbD, bitWord, getMsbD_ofSeqFn]
  simp [hj, h31]

/-- A character shifted to byte m of a word is that byte, and every other byte is zero. -/
theorem extractLsb'_char_shiftLeft (char : Char8) (m j : Fin 4) :
    (char.setWidth 32 <<< (8 * m.val)).extractLsb' (8 * j.val) 8 = if j = m then char else 0#8 := by
  ext i hi
  have h32 : 8 * j.val + i < 32 := by omega
  obtain hlt | rfl | hgt := lt_trichotomy j m
  · have hbelow : 8 * j.val + i < 8 * m.val := by omega
    simp [hlt.ne, hbelow]
  · simp [hi, h32, BitVec.getLsbD_eq_getElem]
  · have habove : 8 ≤ 8 * j.val + i - 8 * m.val := by omega
    simp [hgt.ne', BitVec.getLsbD_of_ge char _ habove]

/-- Byte j of a packed word is character j (R56). -/
theorem extractLsb'_packChars (char : Fin 4 → Char8) (j : Fin 4) :
    (packChars (char 0) (char 1) (char 2) (char 3)).extractLsb' (8 * j.val) 8 = char j := by
  have hpack : packChars (char 0) (char 1) (char 2) (char 3) =
      (char 0).setWidth 32 <<< (8 * (0 : Fin 4).val) ||| (char 1).setWidth 32 <<< (8 * (1 : Fin 4).val) |||
        (char 2).setWidth 32 <<< (8 * (2 : Fin 4).val) ||| (char 3).setWidth 32 <<< (8 * (3 : Fin 4).val) := by
    simp [packChars]
  rw [hpack]
  simp only [BitVec.extractLsb'_or, extractLsb'_char_shiftLeft]
  fin_cases j <;> simp

/-- Character n of a buffer is byte n mod 4 of its word n div 4 (R56). -/
theorem extractLsb'_charWord (buf : CharBuf) (k : Fin 28) (n : Fin 112) (h : n.val / 4 = k.val) :
    (charWord buf k).extractLsb' (8 * (n.val % 4)) 8 = buf[n] := by
  have hbyte := extractLsb'_packChars (fun j => buf[4 * k.val + j.val]) ⟨n.val % 4, Nat.mod_lt _ (by decide)⟩
  have hn : 4 * k.val + n.val % 4 = n.val := by omega
  simp only [hn] at hbyte
  exact hbyte

/-- Settles O47, from the bits of a RES word. -/
theorem resultWordsAreLeastSignificantFirst : Obligations.ResultWordsAreLeastSignificantFirst := fun s rest k =>
  ⟨_, step_facing_read_offset s (.res k) rest, fun j => getLsbD_resWord s.res k j.isLt⟩

/-- Settles O48: bit 31 - (i mod 32) of word i div 32 is element i, and BITS has no element 112 or beyond. -/
theorem bitWordsAreMostSignificantFirst : Obligations.BitWordsAreMostSignificantFirst := by
  intro s rest k
  refine ⟨_, step_facing_read_offset s (.bitw k) rest, fun i hi => ?_, ?_⟩
  · have hidx : 32 * k.val + (31 - (31 - i.val % 32)) = i.val := by omega
    rw [readRegister, getLsbD_bitWord s.bits k (by omega), hidx]
  · rintro rfl j
    rw [readRegister, getLsbD_bitWord s.bits 3 (by omega)]
    exact BitVec.getMsbD_of_ge s.bits _ (show 112 ≤ 32 * 3 + (31 - j.val) by omega)

/-- Settles O49: both buffers are packed alike. -/
theorem characterWordsAreLittleEndian : Obligations.CharacterWordsAreLittleEndian := fun s rest k =>
  ⟨_, _, step_facing_read_offset s (.inw k) rest, step_facing_read_offset s (.outw k) rest, fun n hn =>
    ⟨extractLsb'_charWord s.inBuf k n hn, extractLsb'_charWord s.outBuf k n hn⟩⟩

/-- Settles O50: INWk's write replaces word k of IN. -/
theorem inputWordWriteStoresFourCharacters : Obligations.InputWordWriteStoresFourCharacters := fun s rest k v =>
  ⟨_, step_facing_write_offset s (.inw k) v rest, fun n => setCharWord_getElem s.inBuf k v n.val n.isLt⟩

end Sys2Proof.Machine
end

section
/-! O43: no command reads what it writes, and of WORK only the message it has just loaded, so running it again gives the same
results (R55, R170). -/

namespace Sys2Proof.Machine

/-- No command reads ERR, and each overwrites it (R213, R214). -/
theorem exec_raise (i : Instr) (s : State) (e : ErrCode) : exec i (s.raise e) = exec i s := by
  cases i <;> rfl

/-- Run again on its own result, a command changes at most WORK. -/
def Repeats (i : Instr) (s : State) : Prop :=
  ∃ t v, exec i s = .next t ∧ exec i t = .next { t with work := v }

/-- The same message divided again, in whatever WORK the first division left, gives the same state up to WORK. -/
theorem finishCrc_finishCrc (s : State) {L : Nat} {w w' : BitBuf} (hL : L ≤ 112) (h : AgreeBelow L w w') :
    (s.finishCrc w L).finishCrc w' L = { s.finishCrc w L with work := divide w' L } := by
  rw [State.finishCrc, ← remainder_eq_of_agreeBelow (divide_agreeBelow hL h)]
  rfl

namespace Repeats

variable {i : Instr} {s t : State}

theorem of_fixed (h : exec i s = .next t) (ht : exec i t = .next t) : Repeats i s := ⟨t, t.work, h, ht⟩

theorem of_raise {e : ErrCode} (h : exec i s = .next (s.raise e)) : Repeats i s :=
  of_fixed h ((exec_raise i s e).trans h)

theorem of_finishCrc {L : Nat} {w w' : BitBuf} (h : exec i s = .next (s.finishCrc w L))
    (ht : exec i (s.finishCrc w L) = .next ((s.finishCrc w L).finishCrc w' L)) (hL : L ≤ 112) (hw : AgreeBelow L w w') :
    Repeats i s :=
  ⟨_, _, h, ht.trans (congrArg _ (finishCrc_finishCrc s hL hw))⟩

end Repeats

theorem storedText_setOut_complete (s : State) (text : CharBuf) :
    storedText (s.setOut text).complete = storedText s := rfl

theorem exec_repeats (i : Instr) (s : State) : Repeats i s := by
  cases i with
  | hex2bin len =>
    obtain ⟨-, he⟩ | ⟨seq, hs, he⟩ := execHex2bin_cases len s
    · exact .of_raise he
    · have ht : (s.setBits seq).complete.hexText len = some seq := hs
      exact .of_fixed he (by rw [exec, execHex2bin, ht]; rfl)
  | binload len =>
    obtain ⟨-, he⟩ | ⟨seq, hs, he⟩ := execBinload_cases len s
    · exact .of_raise he
    · have ht : (s.setBits seq).complete.binText len = some seq := hs
      exact .of_fixed he (by rw [exec, execBinload, ht]; rfl)
  | binstore =>
    refine .of_fixed rfl ?_
    rw [exec, execBinstore, storedText_setOut_complete]
    generalize storedText s = text
    rfl
  | bin2int =>
    obtain ⟨-, he⟩ | ⟨hblen, he⟩ := execBin2int_cases s
    · exact .of_raise he
    · exact .of_fixed he (if_neg hblen)
  | hex2int len =>
    obtain ⟨-, he⟩ | ⟨seq, hs, he⟩ := execHex2int_cases len s
    · exact .of_raise he
    · have ht : (s.setRes (uint seq)).complete.hexText len = some seq := hs
      exact .of_fixed he (by rw [exec, execHex2int, ht]; rfl)
  | dfx len =>
    obtain ⟨-, he⟩ | ⟨seq, -, -, he⟩ | ⟨seq, hs, hlen, he⟩ := execDfx_cases len s
    · exact .of_raise he
    · exact .of_raise he
    · have ht : (s.setRes (uint (slice seq 0 5))).complete.hexText len = some seq := hs
      exact .of_fixed he (by rw [exec, execDfx, ht]; exact if_neg hlen.not_gt)
  | crcchk len =>
    obtain ⟨-, he⟩ | ⟨seq, -, -, he⟩ | ⟨seq, hs, hlen, he⟩ := execCrcchk_cases len s
    · exact .of_raise he
    · exact .of_raise he
    · have ht (w : BitBuf) : (s.finishCrc w (4 * len)).hexText len = some seq := hs
      exact .of_finishCrc he (by rw [exec, execCrcchk, ht]; exact if_neg hlen.not_gt) (four_mul_le_of_hexText hs)
        (loadPrefix_agreeBelow_of_hexText hs _ _)
  | crcenc len =>
    obtain ⟨-, he⟩ | ⟨seq, -, -, he⟩ | ⟨seq, hs, hlen, he⟩ := execCrcenc_cases len s
    · exact .of_raise he
    · exact .of_raise he
    · have ht (w : BitBuf) : (s.finishCrc w (4 * len)).hexText len = some seq := hs
      exact .of_finishCrc he (by rw [exec, execCrcenc, ht]; exact if_neg hlen.not_gt) (four_mul_le_of_hexText hs)
        (clearRange_agreeBelow (loadPrefix_agreeBelow_of_hexText hs _ _) _ _)
  | icaochk abs len => exact .of_fixed rfl rfl

/-- Settles O43: a word's command repeats itself, and an illegal word raises the same error again. -/
theorem repeatedCommandGivesTheSameResults : Obligations.RepeatedCommandGivesTheSameResults := by
  intro w s t h
  cases hd : decode w with
  | ok i =>
    obtain ⟨u, v, hu, hv⟩ := exec_repeats i s
    rw [execute_of_decode_ok hd] at h ⊢
    cases hu.symm.trans h
    exact ⟨v, hv⟩
  | error e =>
    rw [execute_of_decode_error hd] at h ⊢
    cases h
    exact ⟨s.work, rfl⟩

end Sys2Proof.Machine
end

section
/-! The format C32 (R81): a word is its four fields, and the word of a command is the one that has the command's fields. -/

namespace Sys2Proof

/-! ## A word is its fields -/

theorem word_eq_iff_fields {v w : Word} :
    v = w ↔ opField v = opField w ∧ lenField v = lenField w ∧ absField v = absField w ∧ rsvField v = rsvField w := by
  constructor
  · rintro rfl
    exact ⟨rfl, rfl, rfl, rfl⟩
  · rintro ⟨hop, hlen, habs, hrsv⟩
    have hlen := BitVec.eq_of_toNat_eq hlen
    refine BitVec.eq_of_getLsbD_eq fun j hj => ?_
    obtain h8 | h16 | rfl | h17 : j < 8 ∨ (8 ≤ j ∧ j < 16) ∨ j = 16 ∨ 17 ≤ j := by omega
    · simpa [opField, h8] using congrArg (·.getLsbD j) hop
    · have hj8 : j - 8 < 8 := by omega
      simpa [hj8, Nat.add_sub_cancel' h16.1] using congrArg (·.getLsbD (j - 8)) hlen
    · exact habs
    · have hj17 : j - 17 < 15 := by omega
      simpa [rsvField, hj17, Nat.add_sub_cancel' h17] using congrArg (·.getLsbD (j - 17)) hrsv

theorem lenField_le (w : Word) : lenField w ≤ 255 := Nat.le_of_lt_succ (BitVec.isLt _)

/-! A mask of R84 takes each field whole or not at all. -/

@[simp] theorem opField_and (w mask : Word) : opField (w &&& mask) = opField w &&& opField mask := BitVec.extractLsb'_and

@[simp] theorem lenField_and (w mask : Word) : lenField (w &&& mask) = lenField w &&& lenField mask := by
  rw [lenField, BitVec.extractLsb'_and, BitVec.toNat_and]
  rfl

@[simp] theorem absField_and (w mask : Word) : absField (w &&& mask) = (absField w && absField mask) :=
  BitVec.getLsbD_and

@[simp] theorem rsvField_and (w mask : Word) : rsvField (w &&& mask) = rsvField w &&& rsvField mask := BitVec.extractLsb'_and

/-! ## The words of a command -/

/-- w's fields are those of command i: its code, LEN and ABS, and RSV = 0 (R81, R85). -/
structure HasFields (i : Instr) (w : Word) : Prop where
  op : opField w = i.op.code
  len : lenField w = i.len
  abs : absField w = i.abs
  rsv : rsvField w = 0#15

theorem hasFields_iff (i : Instr) (w : Word) :
    HasFields i w ↔ opField w = i.op.code ∧ lenField w = i.len ∧ absField w = i.abs ∧ rsvField w = 0#15 :=
  ⟨fun ⟨hop, hlen, habs, hrsv⟩ => ⟨hop, hlen, habs, hrsv⟩, fun ⟨hop, hlen, habs, hrsv⟩ => ⟨hop, hlen, habs, hrsv⟩⟩

theorem wf_iff_len_le {i : Instr} : i.wf = true ↔ i.len ≤ 255 := by
  cases i <;> simp [Instr.wf, Instr.len, lenFits]

theorem hasFields_encode {i : Instr} (h : i.wf = true) : HasFields i (encode i) := by
  obtain ⟨hop, hlen, habs, hrsv⟩ := Laws.EncodedFields.of_len_le wf_iff_len_le.mp h
  exact ⟨hop, hlen, habs, hrsv⟩

theorem HasFields.wf {i : Instr} {w : Word} (h : HasFields i w) : i.wf = true :=
  wf_iff_len_le.mpr (h.len ▸ lenField_le w)

theorem HasFields.encode_eq {i : Instr} {w : Word} (h : HasFields i w) : encode i = w := by
  have he := hasFields_encode h.wf
  exact word_eq_iff_fields.mpr
    ⟨he.op.trans h.op.symm, he.len.trans h.len.symm, he.abs.trans h.abs.symm, he.rsv.trans h.rsv.symm⟩

@[simp] theorem op_assemble (op : Op) (len : Nat) (abs : Bool) : (assemble op len abs).op = op := by
  cases op <;> rfl

@[simp] theorem assemble_op_len_abs (i : Instr) : assemble i.op i.len i.abs = i := by
  cases i <;> rfl

theorem HasFields.assemble_eq {i : Instr} {w : Word} (h : HasFields i w) :
    assemble i.op (lenField w) (absField w) = i := by
  rw [h.len, h.abs, assemble_op_len_abs]

end Sys2Proof
end

section
/-! O4: a row of the opcode table selects exactly the words that have the fields of a command of its opcode (R84, R85). -/

namespace Sys2Proof

theorem row_eq_of_code_eq {r r' : Row} (hr : r ∈ opcodeTable) (hr' : r' ∈ opcodeTable) (h : r.op.code = r'.op.code) :
    r = r' :=
  List.inj_on_of_nodup_map (f := fun r => r.op.code) (by decide) hr hr' h

theorem exists_row_of_op (op : Op) : ∃ r ∈ opcodeTable, r.op = op := by
  cases op <;> decide

/-- Every row compares OP with its code and RSV with 0, and of LEN and ABS it asks at most that they be 0 (R84). -/
theorem fields_of_row : ∀ r ∈ opcodeTable,
    (opField r.mask = BitVec.allOnes 8 ∧ rsvField r.mask = BitVec.allOnes 15) ∧
    opField r.pattern = r.op.code ∧ lenField r.pattern = 0 ∧ absField r.pattern = false ∧ rsvField r.pattern = 0#15 := by
  decide

theorem lenField_and_255 (w : Word) : lenField w &&& 255 = lenField w :=
  (Nat.and_two_pow_sub_one_eq_mod _ 8).trans (Nat.mod_eq_of_lt (BitVec.isLt _))

/-- The rows whose command has no LEN compare LEN with 0 (R85). -/
theorem lenField_and_mask_eq_zero_iff {r : Row} (hr : r ∈ opcodeTable) (w : Word) :
    lenField w &&& lenField r.mask = 0 ↔ lenField w = (assemble r.op (lenField w) (absField w)).len := by
  have hfree : lenField 0xFFFF00FF#32 = 0 ∧ lenField 0xFFFE00FF#32 = 0 := ⟨rfl, rfl⟩
  have hzero : lenField 0xFFFFFFFF#32 = 255 := rfl
  revert r
  simp [opcodeTable, assemble, Instr.len, hfree, hzero, lenField_and_255]

/-- The rows whose command has no ABS compare ABS with 0 (R85). -/
theorem absField_and_mask_eq_false_iff {r : Row} (hr : r ∈ opcodeTable) (w : Word) :
    (absField w && absField r.mask) = false ↔ absField w = (assemble r.op (lenField w) (absField w)).abs := by
  have hfree : absField 0xFFFE00FF#32 = false := rfl
  have hzero : absField 0xFFFF00FF#32 = true ∧ absField 0xFFFFFFFF#32 = true := ⟨rfl, rfl⟩
  revert r
  simp [opcodeTable, assemble, Instr.abs, hfree, hzero]

/-- A row selects the words whose fields are those of a command of its opcode, with LEN and ABS free where the command reads
them (R84, R85). -/
theorem selects_iff_hasFields {r : Row} (hr : r ∈ opcodeTable) (w : Word) :
    r.selects w = true ↔ HasFields (assemble r.op (lenField w) (absField w)) w := by
  obtain ⟨⟨hop, hrsv⟩, hop', hlen', habs', hrsv'⟩ := fields_of_row r hr
  rw [Row.selects, beq_iff_eq, word_eq_iff_fields, opField_and, lenField_and, absField_and, rsvField_and, hop, hrsv, hop',
    hlen', habs', hrsv', BitVec.and_allOnes, BitVec.and_allOnes, lenField_and_mask_eq_zero_iff hr,
    absField_and_mask_eq_false_iff hr, hasFields_iff, op_assemble]

theorem opField_of_selects {r : Row} (hr : r ∈ opcodeTable) {w : Word} (h : r.selects w = true) :
    opField w = r.op.code := by
  simpa using ((selects_iff_hasFields hr w).mp h).op

/-- Settles O4: a word has one OP, and the rows have nine different codes. -/
theorem atMostOneRowSelectsAWord : Obligations.AtMostOneRowSelectsAWord := fun _ _ _ hr hr' h h' =>
  row_eq_of_code_eq hr hr' ((opField_of_selects hr h).symm.trans (opField_of_selects hr' h'))

end Sys2Proof
end

section
/-! O1, O2, O3 and O5: a word decodes to the command whose fields it has, so `decode` and `encode` invert each other, and the
illegal words are those of R86's list. -/

namespace Sys2Proof

theorem decode_of_selects {r : Row} (hr : r ∈ opcodeTable) {w : Word} (h : r.selects w = true) :
    decode w = .ok (assemble r.op (lenField w) (absField w)) := by
  cases hfind : opcodeTable.find? fun r => r.selects w with
  | none => exact absurd h (List.find?_eq_none.mp hfind r hr)
  | some r' =>
    have hr' := List.mem_of_find?_eq_some hfind
    have h' : r'.selects w = true := List.find?_some (p := fun r : Row => r.selects w) hfind
    rw [decode, hfind, atMostOneRowSelectsAWord w r' r hr' hr h' h]

theorem decode_of_not_selects {w : Word} (h : ∀ r ∈ opcodeTable, ¬ r.selects w = true) :
    decode w = .error (rejection w) := by
  rw [decode, List.find?_eq_none.mpr h]

/-- A word decodes to the command whose fields it has, and to no other. -/
theorem decode_eq_ok_iff {w : Word} {i : Instr} : decode w = .ok i ↔ HasFields i w := by
  constructor
  · intro h
    by_cases hex : ∃ r ∈ opcodeTable, r.selects w = true
    · obtain ⟨r, hr, hsel⟩ := hex
      cases (decode_of_selects hr hsel).symm.trans h
      exact (selects_iff_hasFields hr w).mp hsel
    · cases (decode_of_not_selects (by simpa using hex)).symm.trans h
  · intro h
    obtain ⟨r, hr, hop⟩ := exists_row_of_op i.op
    have hsel : r.selects w = true := (selects_iff_hasFields hr w).mpr (by rwa [hop, h.assemble_eq])
    rw [decode_of_selects hr hsel, hop, h.assemble_eq]

/-- Settles O1: the word of a well-formed command has that command's fields. -/
theorem decodeOfEncodeIsTheCommand : Obligations.DecodeOfEncodeIsTheCommand := fun _ h =>
  decode_eq_ok_iff.mpr (hasFields_encode h)

/-- Settles O2: a word with a command's fields is the command's word. -/
theorem encodeOfDecodeIsTheWord : Obligations.EncodeOfDecodeIsTheWord := fun _ _ h =>
  have hf := decode_eq_ok_iff.mp h
  ⟨hf.wf, hf.encode_eq⟩

/-- Settles O3: each word is the encoding of its command. -/
theorem commandWordsOfTheTestVectorsDecode : Obligations.CommandWordsOfTheTestVectorsDecode :=
  have word (i : Instr) (h : i.wf = true) : decode (encode i) = .ok i := decodeOfEncodeIsTheCommand i h
  ⟨word (.hex2bin 28) rfl, word (.binload 5) rfl, word .binstore rfl, word .bin2int rfl, word (.hex2int 6) rfl,
    word (.dfx 28) rfl, word (.crcchk 28) rfl, word (.crcenc 28) rfl, word (.icaochk false 6) rfl,
    word (.icaochk true 0) rfl, word (.icaochk false 255) rfl, word (.hex2bin 29) rfl⟩

/-! ## Illegal words -/

/-- The rows stand in the order of their codes, from 0x01 (R84). -/
theorem code_of_getElem_opcodeTable : ∀ k : Fin 9, opcodeTable[k.val].op.code = BitVec.ofNat 8 (k.val + 1) := by
  decide

theorem exists_row_iff_assigned (code : BitVec 8) :
    (∃ r ∈ opcodeTable, r.op.code = code) ↔ ¬ (code = 0x00#8 ∨ 0x0A#8 ≤ code) := by
  constructor
  · rintro ⟨r, hr, rfl⟩
    revert r
    decide
  · intro h
    have hpos : 0 < code.toNat := by bv_omega
    have hlt : code.toNat - 1 < 9 := by bv_omega
    refine ⟨_, List.getElem_mem hlt, (code_of_getElem_opcodeTable ⟨_, hlt⟩).trans ?_⟩
    rw [Nat.sub_add_cancel hpos, BitVec.ofNat_toNat, BitVec.setWidth_eq]

/-- Whether a word with a row's OP is illegal is up to that row alone. -/
theorem exists_error_iff_of_opField {r : Row} (hr : r ∈ opcodeTable) {w : Word} (h : opField w = r.op.code) :
    (∃ e, decode w = .error e) ↔ ¬ HasFields (assemble r.op (lenField w) (absField w)) w := by
  rw [← selects_iff_hasFields hr]
  constructor
  · rintro ⟨e, he⟩ hsel
    cases (decode_of_selects hr hsel).symm.trans he
  · refine fun hsel => ⟨_, decode_of_not_selects fun r' hr' hsel' => hsel ?_⟩
    cases row_eq_of_code_eq hr' hr ((opField_of_selects hr' hsel').symm.trans h)
    exact hsel'

/-- Of a word whose OP is assigned, the operands that R85 forbids are the last three items of R86's list. -/
theorem not_hasFields_assemble_iff {op : Op} {w : Word} (h : opField w = op.code) :
    ¬ HasFields (assemble op (lenField w) (absField w)) w ↔
      rsvField w ≠ 0#15 ∨ ((0x01#8 ≤ opField w ∧ opField w ≤ 0x08#8) ∧ absField w = true) ∨
        ((opField w = 0x03#8 ∨ opField w = 0x04#8) ∧ lenField w ≠ 0) := by
  rw [hasFields_iff, op_assemble, h]
  cases op <;> simp [Op.code, assemble, Instr.len, Instr.abs, imp_iff_not_or, or_assoc, or_comm, or_left_comm]

theorem lenField_ne_zero_iff (w : Word) : lenField w ≠ 0 ↔ w.extractLsb' 8 8 ≠ 0x00#8 :=
  not_congr (BitVec.toNat_eq (y := 0x00#8)).symm

/-- Settles O5: an unassigned OP has no row, and the one row of an assigned OP selects the word unless another item of the
list holds. -/
theorem illegalWordsOnlySetIllegalCommand : Obligations.IllegalWordsOnlySetIllegalCommand := by
  intro w
  refine ⟨?_, fun ⟨_, he⟩ s => Machine.execute_of_decode_error he s⟩
  by_cases hop : opField w = 0x00#8 ∨ 0x0A#8 ≤ opField w
  · refine iff_of_true ⟨_, decode_of_not_selects fun r hr hsel => ?_⟩ (.inl hop)
    exact (exists_row_iff_assigned _).mp ⟨r, hr, (opField_of_selects hr hsel).symm⟩ hop
  · obtain ⟨r, hr, hcode⟩ := (exists_row_iff_assigned _).mpr hop
    rw [exists_error_iff_of_opField hr hcode.symm, not_hasFields_assemble_iff hcode.symm, lenField_ne_zero_iff]
    exact (or_iff_right hop).symm

end Sys2Proof
end

section
/-! O7, O8, O57 and O58: how a command word comes to run, that every step goes on, and the host's statements (R87, R89, R90). -/

namespace Sys2Proof.Machine

open Spec

theorem decodeTableWord_eq_some_iff {nbits w : Nat} {i : Instr} :
    decodeTableWord nbits w = some i ↔ decode (tableWord nbits w) = .ok i := by
  rw [decodeTableWord]
  cases decode (tableWord nbits w) <;> simp

/-- Settles O7: the state faces a write of the word to CMD, with the original state's queue behind it. -/
theorem fetchWordIsRunByTheNextStep : Obligations.FetchWordIsRunByTheNextStep := by
  intro s nbits w i h
  have hstep := step_facing_write_offset s .cmd (tableWord nbits w) s.pending
  rw [writeRegister, execute_of_decode_ok (decodeTableWord_eq_some_iff.mp h)] at hstep
  exact hstep

theorem serve_completes (e : HostEvent) (s : State) : Completes (serve e s) := by
  cases e with
  | access a =>
    obtain ⟨t, -, ht, -⟩ := serveAccess_keeps_queue a s
    exact ⟨t, ht⟩
  | reset a => exact ⟨_, rfl⟩

/-- Settles O8: an idle step goes on, and so does every event it may serve. -/
theorem everyStepCompletes : Obligations.EveryStepCompletes := by
  intro s
  cases hp : s.pending with
  | nil => exact ⟨_, step_of_pending_nil hp⟩
  | cons e rest =>
    obtain ⟨t, ht⟩ := serve_completes e { s with pending := rest }
    exact ⟨_, by rw [step_of_pending_cons hp, ht, onNext_next]⟩

/-- The word of a code and a LEN, without ABS, in the form R89 writes it. -/
theorem fieldsWord_false (op : BitVec 8) {n : Nat} (h : n ≤ 255) :
    fieldsWord op n false = op.setWidth 32 ||| BitVec.ofNat 32 n <<< 8 := by
  have hn : (BitVec.ofNat 8 n).setWidth 32 = BitVec.ofNat 32 n := by bv_omega
  rw [fieldsWord, hn]
  exact BitVec.or_zero

/-- Settles O57: a command's statement stores its encoded word. -/
theorem hostStatementsExpandToAccesses : Obligations.HostStatementsExpandToAccesses := by
  intro n off imm h
  have hword (i : Instr) (habs : i.abs = false) (hlen : i.len = n) :
      Stmt.expand (.command i) =
        [.access (.write 0x004#12 .word (i.op.code.setWidth 32 ||| BitVec.ofNat 32 n <<< 8))] := by
    rw [Stmt.expand, encode, habs, hlen, fieldsWord_false _ h]
    rfl
  exact ⟨rfl, rfl, rfl, hword (.hex2bin n) rfl rfl, hword (.binload n) rfl rfl, hword (.hex2int n) rfl rfl,
    hword (.dfx n) rfl rfl, hword (.crcchk n) rfl rfl, hword (.crcenc n) rfl rfl, hword (.icaochk false n) rfl rfl,
    rfl, rfl, rfl⟩

/-- Byte j of a packed word is the text's character 4k + j, 0x00 past its end (R56, R90). -/
theorem extractLsb'_packWord (text : List Char8) (k : Nat) (j : Fin 4) :
    (packWord text k).extractLsb' (8 * j.val) 8 = text[4 * k + j.val]?.getD 0x00#8 :=
  extractLsb'_packChars (fun j => text[4 * k + j.val]?.getD 0x00#8) j

/-- Settles O58, word by word of the expansion. -/
theorem loadstrWritesOnlyTheWordsItReaches : Obligations.LoadstrWritesOnlyTheWordsItReaches := by
  intro text _
  refine ⟨by simp [Stmt.expand], fun k hk => ⟨packWord text k, ?_, extractLsb'_packWord text k⟩⟩
  rw [Stmt.expand, List.getElem?_map, List.getElem?_range hk]
  rfl

end Sys2Proof.Machine
end

section
/-! O12 to O14: the digits of the representation converter (R100, R101) and the bit sequences its commands read, written as
f(0), ..., f(n-1): the hex text, the binary text and BITS[0..BLEN), with the number such a sequence denotes (R11, R102). -/

namespace Sys2Proof.Machine

open Spec

/-- Settles O12, range by range. -/
theorem hexvalIsTheDigitTable : Obligations.HexvalIsTheDigitTable := fun _ =>
  ⟨fun h => if_pos h,
    fun h => (if_neg (by omega)).trans (if_pos h),
    fun h => (if_neg (by omega)).trans ((if_neg (by omega)).trans (if_pos h)),
    fun ⟨hdigit, hupper, hlower⟩ => (if_neg hdigit).trans ((if_neg hupper).trans (if_neg hlower))⟩

/-- Settles O13, code by code. -/
theorem binvalIsTheBinaryDigits : Obligations.BinvalIsTheBinaryDigits := fun _ =>
  ⟨rfl, rfl, fun h0 h1 => (if_neg h0).trans (if_neg h1)⟩

/-! ## Numbers -/

/-- A valuation of digit sequences that gives the first digit the highest power of B is the positional sum. -/
theorem positional_map_range {α : Type} {val : List α → Nat} {digit : α → Nat} {B : Nat} (hnil : val [] = 0)
    (hcons : ∀ a rest, val (a :: rest) = digit a * B ^ rest.length + val rest) (f : Nat → α) (n : Nat) :
    val ((List.range n).map f) = ∑ k ∈ Finset.range n, digit (f k) * B ^ (n - 1 - k) := by
  induction n generalizing f with
  | zero => exact hnil
  | succ n ih =>
    have hexp (k : Nat) : n - 1 - k = n + 1 - 1 - (k + 1) := by omega
    rw [List.range_succ_eq_map, List.map_cons, List.map_map, hcons, ih, Finset.sum_range_succ', add_comm]
    simp [hexp]

theorem uint_map_range (f : Nat → Bool) (n : Nat) : uint ((List.range n).map f) = uintOf n f :=
  positional_map_range uint_nil uint_cons f n

theorem base16_map_digitAt (s : State) (n : Nat) : base16 ((List.range n).map (digitAt s)) = hexNumber s 0 n := by
  rw [hexNumber, positional_map_range (val := base16) (digit := id) rfl fun _ _ => rfl]
  simp

theorem uintOf_congr {n : Nat} {f g : Nat → Bool} (h : ∀ i < n, f i = g i) : uintOf n f = uintOf n g :=
  Finset.sum_congr rfl fun i hi => by rw [h i (Finset.mem_range.mp hi)]

/-- RES holds the number of a sequence exactly (R13). -/
theorem toNat_ofNat_uint {seq : List Bool} (h : seq.length ≤ 112) : (BitVec.ofNat 128 (uint seq)).toNat = uint seq := by
  have hlt := uint_lt_two_pow_112 h
  rw [BitVec.toNat_ofNat]
  omega

/-! ## Texts -/

/-- The digits of a text, given character by character. -/
theorem digits_inText_eq_map {α : Type} {val : Char8 → Option α} {f : Nat → α} {s : State} {len : Nat} (hlen : len ≤ 112)
    (h : ∀ k : Fin 112, k.val < len → val s.inBuf[k] = some (f k.val)) :
    digits val (s.inText len) = some ((List.range len).map f) := by
  rw [digits_eq_some_iff]
  refine List.ext_getElem (by simp [hlen]) fun k hk _ => ?_
  rw [List.length_map, length_inText] at hk
  simpa [getElem_inText] using h ⟨k, by omega⟩ (by simp only; omega)

theorem digits_inText_eq_none {α : Type} {val : Char8 → Option α} {s : State} {len : Nat}
    (h : ∃ k : Fin 112, k.val < len ∧ val s.inBuf[k] = none) : digits val (s.inText len) = none := by
  obtain ⟨k, hk, hval⟩ := h
  have hlt : k.val < (s.inText len).length := by rw [length_inText]; omega
  exact (digits_eq_none_iff val _).mpr ⟨_, List.getElem_mem hlt, by rw [getElem_inText]; exact hval⟩

theorem digits_eq_of_map_eq {α : Type} {val : Char8 → Option α} {text text' : List Char8}
    (h : text'.map val = text.map val) : digits val text' = digits val text :=
  Option.ext fun vs => by rw [digits_eq_some_iff, digits_eq_some_iff, h]

/-- A text's digits under a valuation that sees the same values in both contents of IN. -/
theorem digits_inText_congr {α : Type} {val : Char8 → Option α} {s t : State}
    (h : ∀ k : Fin 112, val t.inBuf[k] = val s.inBuf[k]) (len : Nat) :
    digits val (t.inText len) = digits val (s.inText len) := by
  refine digits_eq_of_map_eq (List.ext_getElem (by simp) fun k hk _ => ?_)
  rw [List.length_map, length_inText] at hk
  simpa [getElem_inText] using h ⟨k, by omega⟩

theorem digitAt_fin (s : State) (k : Fin 112) : digitAt s k.val = (hexval s.inBuf[k]).getD 0 := by
  simp [digitAt]

theorem digitAt_lt (s : State) (k : Nat) : digitAt s k < 16 := by
  rw [digitAt]
  cases hd : (s.inBuf[k]?).bind hexval with
  | none => decide
  | some v =>
    obtain ⟨_, -, hv⟩ := Option.bind_eq_some_iff.mp hd
    exact hexval_lt hv

/-- The digits of a hex text. -/
theorem digits_hexval_of_hexTextIn {s : State} {len : Nat} (h : HexTextIn s len) :
    digits hexval (s.inText len) = some ((List.range len).map (digitAt s)) := by
  obtain ⟨-, h28, hdigit⟩ := h
  refine digits_inText_eq_map (by omega) fun k hk => ?_
  obtain ⟨v, hv⟩ := Option.isSome_iff_exists.mp (hdigit k hk)
  rw [digitAt_fin, hv]
  rfl

/-- Four bits a digit, in one sequence (R102). -/
theorem flatMap_nibble_map_range (d : Nat → Nat) (n : Nat) :
    ((List.range n).map d).flatMap nibble = (List.range (4 * n)).map fun i => (d (i / 4)).testBit (3 - i % 4) := by
  induction n with
  | zero => rfl
  | succ n ih =>
    have hlast : (List.range 4).map ((fun i => (d (i / 4)).testBit (3 - i % 4)) ∘ (4 * n + ·)) = nibble (d n) := by
      simp [List.range_succ, nibble, Nat.mul_add_div]
    rw [List.range_succ, List.map_append, List.flatMap_append, ih, Nat.mul_succ, List.range_add, List.map_append,
      List.map_map, hlast]
    simp

/-- The bits of a hex text (R102). -/
theorem hexText_of_hexTextIn {s : State} {len : Nat} (h : HexTextIn s len) :
    s.hexText len = some ((List.range (4 * len)).map (hexBit s)) := by
  have hdigits := digits_hexval_of_hexTextIn h
  obtain ⟨h1, h28, -⟩ := h
  exact (hexText_eq_some_iff s len _).mpr ⟨h1, h28, _, hdigits, (flatMap_nibble_map_range (digitAt s) len).symm⟩

/-- Four bits a digit denote the number of its digits (R114). -/
theorem uint_map_hexBit (s : State) (len : Nat) :
    uint ((List.range (4 * len)).map (hexBit s)) = hexNumber s 0 len := by
  have hlt (v : Nat) (hv : v ∈ (List.range len).map (digitAt s)) : v < 16 := by
    obtain ⟨k, -, rfl⟩ := List.mem_map.mp hv
    exact digitAt_lt s k
  have hseq : (List.range (4 * len)).map (hexBit s) = ((List.range len).map (digitAt s)).flatMap nibble :=
    (flatMap_nibble_map_range (digitAt s) len).symm
  rw [hseq, uint_flatMap_nibble hlt, base16_map_digitAt]

theorem hexText_of_noHexTextIn {s : State} {len : Nat} (h : NoHexTextIn s len) : s.hexText len = none := by
  obtain h0 | h28 | hbad := h
  · simp [State.hexText, h0]
  · simp [State.hexText, h28]
  · simp [State.hexText, digits_inText_eq_none hbad]

/-- Element k of a binary text: whether IN[k] is '1' (R101, R111). -/
def binBit (s : State) (k : Nat) : Bool := decide (s.inBuf[k]? = some 0x31#8)

theorem binBit_fin (s : State) (k : Fin 112) : binBit s k.val = decide (s.inBuf[k] = 0x31#8) := by
  simp [binBit]

/-- The bits of a binary text (R111). -/
theorem binText_of_binTextIn {s : State} {len : Nat} (h : BinTextIn s len) :
    s.binText len = some ((List.range len).map (binBit s)) := by
  obtain ⟨h1, h112, hdigit⟩ := h
  refine (binText_eq_some_iff s len _).mpr ⟨h1, h112, digits_inText_eq_map h112 fun k hk => ?_⟩
  rw [binBit_fin]
  obtain hc | hc := hdigit k hk <;> rw [hc] <;> rfl

theorem binText_of_noBinTextIn {s : State} {len : Nat} (h : NoBinTextIn s len) : s.binText len = none := by
  obtain h0 | h112 | ⟨k, hk, hne0, hne1⟩ := h
  · simp [State.binText, h0]
  · simp [State.binText, h112]
  · obtain ⟨-, -, hinvalid⟩ := binvalIsTheBinaryDigits s.inBuf[k]
    simp [State.binText, digits_inText_eq_none ⟨k, hk, hinvalid hne0 hne1⟩]

/-- The bit operand of a BLEN that occurs (R25, R82). -/
theorem bitOperand_eq_map {s : State} (h : blenInRange s) :
    s.bitOperand = (List.range s.blen.toNat).map s.bits.getMsbD := by
  rw [State.bitOperand, seqOf, ← List.map_take, List.take_range, min_eq_left h]

/-- The bits of BITS after a load: the sequence, and zeros past it. -/
theorem getMsbD_setBits_map_range (s : State) (f : Nat → Bool) (n : Nat) (i : Fin 112) :
    (s.setBits ((List.range n).map f)).bits.getMsbD i.val = if i.val < n then f i.val else false := by
  by_cases hi : i.val < n <;> simp [hi]

theorem toNat_ofNat_blen {n : Nat} (h : n ≤ 112) : (BitVec.ofNat 8 n).toNat = n := by
  rw [BitVec.toNat_ofNat]
  omega

/-- Settles O14: element 4k + j is bit 3 - j of digit k. -/
theorem hexTextExpandsEachDigit : Obligations.HexTextExpandsEachDigit := by
  refine fun s len => ⟨fun h => ⟨_, hexText_of_hexTextIn h, by simp, fun k j v hk hj hv => ?_⟩, hexText_of_noHexTextIn⟩
  have hdigit : digitAt s ((4 * k + j) / 4) = v := by
    rw [show (4 * k + j) / 4 = k by omega, digitAt, hv, Option.getD_some]
  have hbit : (4 * k + j) % 4 = j := by omega
  rw [List.getElem?_map, List.getElem?_range (by omega), Option.map_some, hexBit, hdigit, hbit]

end Sys2Proof.Machine
end

section
/-! O15 to O22 and O42: the next state of each conversion command, and what two of them in a row give (R110 to R117). -/

namespace Sys2Proof.Machine

open Spec

/-- Settles O15: the hex text is loaded, or there is none. -/
theorem hex2binLoadsTheBitsOrRaises : Obligations.Hex2binLoadsTheBitsOrRaises := by
  refine fun s len => ⟨fun h => ⟨_, getMsbD_setBits_map_range s (hexBit s) (4 * len), ?_⟩, fun h => ?_⟩
  · rw [exec, execHex2bin, hexText_of_hexTextIn h]
    simp [State.setBits, State.complete]
  · rw [exec, execHex2bin, hexText_of_noHexTextIn h]
    rfl

/-- Settles O16: the binary text is loaded, or there is none. -/
theorem binloadLoadsTheBitsOrRaises : Obligations.BinloadLoadsTheBitsOrRaises := by
  refine fun s len => ⟨fun h => ⟨(s.setBits ((List.range len).map (binBit s))).bits, fun i => ?_, ?_⟩, fun h => ?_⟩
  · rw [← binBit_fin]
    exact getMsbD_setBits_map_range s (binBit s) len i
  · rw [exec, execBinload, binText_of_binTextIn h]
    simp [State.setBits, State.complete]
  · rw [exec, execBinload, binText_of_noBinTextIn h]
    rfl

/-- Settles O17: each stored character is the bit's digit. -/
theorem binstoreWritesTheBitsAsText : Obligations.BinstoreWritesTheBitsAsText := by
  refine fun s => ⟨storedText s, fun k => ?_, by simp [exec, execBinstore, State.setOut, State.complete]⟩
  have hk : (storedText s)[k] = storedChar s k.val := by simp [storedText]
  rw [hk, storedChar]
  cases s.bits.getMsbD k.val <;> rfl

/-- Settles O18: the operand is the first BLEN bits. -/
theorem bin2intGivesTheNumberOrRaises : Obligations.Bin2intGivesTheNumberOrRaises := by
  refine fun s => ⟨fun hne hblen => ⟨BitVec.ofNat 128 (uint s.bitOperand), ?_, ?_⟩, fun h => ?_⟩
  · rw [toNat_ofNat_uint (length_bitOperand_le s), bitOperand_eq_map hblen, uint_map_range]
  · rw [exec, execBin2int, if_neg hne]
    rfl
  · rw [exec, execBin2int, if_pos h]
    rfl

/-- Settles O19: the number of the text's bits is the number of its digits, since four bits denote their digit. -/
theorem hex2intGivesTheNumberOrRaises : Obligations.Hex2intGivesTheNumberOrRaises := by
  refine fun s len => ⟨fun h => ?_, fun h => ?_⟩
  · have htext := hexText_of_hexTextIn h
    have hres := toNat_ofNat_uint (length_hexText_le htext)
    refine ⟨_, hres.trans (uint_map_range _ _), hres.trans (uint_map_hexBit s len), ?_⟩
    rw [exec, execHex2int, htext]
    rfl
  · rw [exec, execHex2int, hexText_of_noHexTextIn h]
    rfl

/-- Settles O20: the bits that HEX2BIN loads are the bits whose number HEX2INT gives. -/
theorem hex2binThenBin2intIsHex2int : Obligations.Hex2binThenBin2intIsHex2int := by
  intro s len h
  obtain ⟨b, hbits, hload⟩ := (hex2binLoadsTheBitsOrRaises s len).1 h
  obtain ⟨r, hr, -, hhex⟩ := (hex2intGivesTheNumberOrRaises s len).1 h
  obtain ⟨h1, h28, -⟩ := h
  have hblen : (BitVec.ofNat 8 (4 * len)).toNat = 4 * len := toNat_ofNat_blen (by omega)
  have hne : BitVec.ofNat 8 (4 * len) ≠ 0#8 := fun h0 => by
    rw [h0, BitVec.toNat_zero] at hblen
    omega
  obtain ⟨r', hr', hbin⟩ :=
    (bin2intGivesTheNumberOrRaises { s with bits := b, blen := BitVec.ofNat 8 (4 * len), err := .ok }).1 hne
      (hblen.trans_le (by omega))
  have hbit (i : Nat) (hi : i < 4 * len) : b.getMsbD i = hexBit s i := (hbits ⟨i, by omega⟩).trans (if_pos hi)
  have hres : r' = r := BitVec.eq_of_toNat_eq <| by rw [hr', hr, hblen, uintOf_congr hbit]
  exact ⟨_, _, _, hload, hbin, hhex, hres, rfl, rfl⟩

/-- Settles O21: the digit stored for a loaded bit is the character it was loaded from. -/
theorem binloadThenBinstoreGivesTheTextBack : Obligations.BinloadThenBinstoreGivesTheTextBack := by
  intro s len h
  obtain ⟨b, hbits, hload⟩ := (binloadLoadsTheBitsOrRaises s len).1 h
  obtain ⟨-, h112, hdigit⟩ := h
  have hblen : (BitVec.ofNat 8 len).toNat = len := toNat_ofNat_blen h112
  obtain ⟨o, hout, hstore⟩ := binstoreWritesTheBitsAsText { s with bits := b, blen := BitVec.ofNat 8 len, err := .ok }
  refine ⟨_, _, hload, hstore, fun k hk => (hout k).trans ?_, hblen⟩
  have hbit : b.getMsbD k.val = decide (s.inBuf[k] = 0x31#8) := (hbits k).trans (if_pos hk)
  rw [hblen, if_pos hk, hbit]
  obtain hc | hc := hdigit k hk <;> rw [hc] <;> rfl

/-- Settles O22: a completed HEX2BIN has loaded a hex text, which has 4·LEN bits. -/
theorem completedHex2binHasFourBitsADigit : Obligations.CompletedHex2binHasFourBitsADigit := by
  intro s t len h herr
  obtain ⟨-, he⟩ | ⟨seq, hseq, he⟩ := execHex2bin_cases len s
  · cases he.symm.trans h
    cases herr
  · cases he.symm.trans h
    rw [State.complete_blen, State.setBits_blen, toNat_ofNat_blen (length_hexText_le hseq), length_hexText hseq]

/-- Settles O42: a command other than BINLOAD looks at IN through the digits of its text only. -/
theorem commandsSeeOnlyDigitValues : Obligations.CommandsSeeOnlyDigitValues := by
  intro i s buf hi h
  have hdigits : digits hexval ((s.withUnread buf s.work s.workSeq).inText i.len) = digits hexval (s.inText i.len) :=
    digits_inText_congr h i.len
  obtain ⟨t, w, ht, ht', hwork⟩ := exec_sameUpToUnread i hdigits fun len hlen => absurd hlen (hi len)
  obtain ⟨-, -, -, hseq⟩ := (effect_of_exec ht).frame
  refine ⟨t, ht, ht'.trans ?_⟩
  rw [hwork rfl, ← hseq]
  rfl

end Sys2Proof.Machine
end

section
/-! O23 and O24: DFX's next state on every text, and the value of a text's first five bits (R140 to R142). -/

namespace Sys2Proof.Machine

open Spec

/-- R102 accepts a text or raises on it. -/
theorem hexTextIn_or_noHexTextIn (s : State) (len : Nat) : HexTextIn s len ∨ NoHexTextIn s len := by
  by_cases hbad : ∃ k : Fin 112, k.val < len ∧ hexval s.inBuf[k] = none
  · exact .inr (.inr (.inr hbad))
  · have hdigit (k : Fin 112) (hk : k.val < len) : (hexval s.inBuf[k]).isSome :=
      Option.isSome_iff_ne_none.mpr fun hnone => hbad ⟨k, hk, hnone⟩
    obtain h0 | h28 | ⟨h1, hle⟩ : len = 0 ∨ 28 < len ∨ (1 ≤ len ∧ len ≤ 28) := by omega
    · exact .inr (.inl h0)
    · exact .inr (.inr (.inl h28))
    · exact .inl ⟨h1, hle, hdigit⟩

/-- A prefix of the sequence f(0), ..., f(n-1) (R9). -/
theorem slice_zero_map_range {α : Type} (f : Nat → α) {m n : Nat} (h : m ≤ n) :
    slice ((List.range n).map f) 0 m = (List.range m).map f := by
  rw [slice, List.drop_zero, ← List.map_take, List.take_range, min_eq_left h]

/-- The first five bits are the four of the first digit and the top bit of the second (R141). -/
theorem uintOf_five_hexBit (s : State) : uintOf 5 (hexBit s) = 2 * digitAt s 0 + digitAt s 1 >>> 3 := by
  have hfirst : uint ((List.range 4).map (hexBit s)) = digitAt s 0 := by
    simpa [hexNumber] using uint_map_hexBit s 1
  have htop : (hexBit s 4).toNat = digitAt s 1 >>> 3 := by
    have hbit : hexBit s 4 = (digitAt s 1).testBit 3 := rfl
    have hlt := digitAt_lt s 1
    rw [hbit, Nat.toNat_testBit, Nat.shiftRight_eq_div_pow]
    omega
  calc uintOf 5 (hexBit s)
      = uint ((List.range 4).map (hexBit s) ++ [hexBit s 4]) := by
        rw [← uint_map_range, List.range_succ, List.map_append, List.map_singleton]
    _ = digitAt s 0 * 2 + digitAt s 1 >>> 3 := by
        rw [uint_append, hfirst]
        simp [htop]
    _ = 2 * digitAt s 0 + digitAt s 1 >>> 3 := by rw [Nat.mul_comm]

/-- Settles O23: a text of two characters or more has its first five bits, one character has only four. -/
theorem dfxGivesTheFirstFiveBitsOrRaises : Obligations.DfxGivesTheFirstFiveBitsOrRaises := by
  refine fun s len => ⟨fun h h2 => ?_, fun h h1 => ?_, fun h => ?_⟩
  · have hlen : ¬ 4 * len < 5 := by omega
    have hslice := slice_zero_map_range (hexBit s) (show 5 ≤ 4 * len by omega)
    have hres := toNat_ofNat_uint (seq := (List.range 5).map (hexBit s)) (by simp)
    refine ⟨_, hres.trans (uint_map_range _ _), ?_⟩
    rw [exec, execDfx, hexText_of_hexTextIn h, ← hslice]
    exact if_neg hlen
  · rw [exec, execDfx, hexText_of_hexTextIn h, h1]
    rfl
  · rw [exec, execDfx, hexText_of_noHexTextIn h]
    rfl

/-- Settles O24: DFX completes only on a hex text of two characters or more, and RES is then its first five bits. -/
theorem completedDfxIsTwoDigitsWorth : Obligations.CompletedDfxIsTwoDigitsWorth := by
  intro s t len h herr
  obtain ⟨hnext, hshort, hinvalid⟩ := dfxGivesTheFirstFiveBitsOrRaises s len
  obtain htext | hno := hexTextIn_or_noHexTextIn s len
  · obtain h1 | h2 : len = 1 ∨ 2 ≤ len := by omega
    · cases (hshort htext h1).symm.trans h
      cases herr
    · obtain ⟨r, hr, he⟩ := hnext htext h2
      cases he.symm.trans h
      exact hr.trans (uintOf_five_hexBit s)
  · cases (hinvalid hno).symm.trans h
    cases herr

end Sys2Proof.Machine
end

section
/-! O32: a command run with another WORK (R170). -/

namespace Sys2Proof.Machine

open Spec

/-- Settles O32: of the parts no command reads, only WORK is replaced. -/
theorem noResultDependsOnEarlierWork : Obligations.NoResultDependsOnEarlierWork := by
  intro i s w
  obtain ⟨t, w', ht, ht', -⟩ :=
    exec_sameUpToUnread (s := s) (buf := s.inBuf) (w := w) (n := s.workSeq) i rfl fun _ _ => rfl
  obtain ⟨hin, -, -, hseq⟩ := (effect_of_exec ht).frame
  refine ⟨t, w', ht, ht'.trans ?_⟩
  rw [← hin, ← hseq]
  rfl

end Sys2Proof.Machine
end

section
/-! O25: the bit-serial division of R161 on sequences of bits, what it leaves zero or untouched, and that the model's Divide is
this division. -/

namespace Sys2Proof.Machine

open Spec

/-! ## The division on sequences -/

/-- What iteration i may flip at index k: the generator laid over the window of 25 elements that starts at i. -/
def windowBit (i k : Nat) : Bool := decide (i ≤ k) && decide (k < i + 25) && G (k - i)

theorem windowBit_self (i : Nat) : windowBit i i = true := by
  simp [windowBit, G]

theorem windowBit_of_lt {i k : Nat} (h : k < i) : windowBit i k = false := by
  simp [windowBit, h]

theorem windowBit_of_ge {i k : Nat} (h : i + 25 ≤ k) : windowBit i k = false := by
  simp [windowBit, h]

theorem windowBit_add {i j : Nat} (h : j < 25) : windowBit i (i + j) = G j := by
  simp [windowBit, h]

/-- An iteration flips its window where its first element is set. -/
theorem divided_succ (f : Nat → Bool) (n k : Nat) :
    divided f (n + 1) k = (divided f n k ^^ (divided f n n && windowBit n k)) := by
  have hlt : decide (k ≤ n + 24) = decide (k < n + 25) := by rw [decide_eq_decide]; omega
  have hflip : (divided f n n && windowBit n k) =
      ((divided f n n && decide (n ≤ k) && decide (k ≤ n + 24)) && G (k - n)) := by
    rw [windowBit, hlt, Bool.and_assoc, Bool.and_assoc, Bool.and_assoc]
  rw [hflip]
  simp only [divided]
  cases divided f n n && decide (n ≤ k) && decide (k ≤ n + 24)
  · rw [Bool.false_and, Bool.xor_false]
    rfl
  · rw [Bool.true_and]
    rfl

/-- The iterations done so far leave zeros behind them. -/
theorem divided_eq_false_of_lt (f : Nat → Bool) {n k : Nat} (h : k < n) : divided f n k = false := by
  induction n with
  | zero => omega
  | succ n ih =>
    rw [divided_succ]
    obtain hk | rfl : k < n ∨ k = n := by omega
    · rw [ih hk, windowBit_of_lt hk, Bool.and_false, Bool.xor_false]
    · rw [windowBit_self, Bool.and_true, Bool.xor_self]

/-- No window reaches past the last iteration's. -/
theorem divided_eq_of_ge (f : Nat → Bool) {n k : Nat} (h : n + 24 ≤ k) : divided f n k = f k := by
  induction n with
  | zero => rfl
  | succ n ih =>
    rw [divided_succ, windowBit_of_ge (by omega), Bool.and_false, Bool.xor_false, ih (by omega)]

/-- Iterations that meet only zeros change nothing. -/
theorem divided_of_forall_false {f : Nat → Bool} {n : Nat} (h : ∀ i < n, f i = false) : divided f n = f := by
  induction n with
  | zero => rfl
  | succ n ih =>
    funext k
    rw [divided_succ, ih fun i hi => h i (by omega), h n (by omega), Bool.false_and, Bool.xor_false]

/-- The first L elements of the result depend on the first L elements only. -/
theorem divided_congr {f g : Nat → Bool} {L n : Nat} (h : ∀ k < L, f k = g k) (hn : n ≤ L) :
    ∀ k < L, divided f n k = divided g n k := by
  induction n with
  | zero => exact h
  | succ n ih =>
    intro k hk
    rw [divided_succ, divided_succ, ih (by omega) k hk, ih (by omega) n (by omega)]

/-- The division is linear over XOR. -/
theorem divided_xor (f g : Nat → Bool) (n k : Nat) :
    divided (fun i => f i ^^ g i) n k = (divided f n k ^^ divided g n k) := by
  induction n generalizing k with
  | zero => rfl
  | succ n ih =>
    rw [divided_succ, divided_succ, divided_succ, ih, ih, Bool.and_xor_distrib_right, Bool.xor_assoc, Bool.xor_assoc,
      Bool.xor_left_comm (divided g n k)]

/-! ## The model's Divide -/

/-- GEN holds the pattern of R160. -/
theorem getMsbD_genPoly : ∀ j < 25, genPoly.getMsbD j = G j := by decide

theorem getMsbD_divideStep (w : BitBuf) {i : Nat} (hi : i + 25 ≤ 112) (k : Nat) :
    (divideStep w i).getMsbD k = (w.getMsbD k ^^ (w.getMsbD i && windowBit i k)) := by
  have hwindow : (decide (i ≤ k) && decide (k < i + 25) && genPoly.getMsbD (k - i)) = windowBit i k := by
    by_cases hk : k < i + 25
    · rw [windowBit, getMsbD_genPoly (k - i) (by omega)]
    · rw [windowBit_of_ge (by omega)]
      simp [hk]
  rw [divideStep]
  split
  next hw => rw [getMsbD_xorWindow w hi, hwindow, hw, Bool.true_and]
  next hw => rw [Bool.eq_false_of_not_eq_true hw, Bool.false_and, Bool.xor_false]

/-- The model's iterations, window by window, are the rule's, bit by bit. -/
theorem getMsbD_foldl_divideStep (w : BitBuf) {n : Nat} (hn : n ≤ 88) (k : Nat) :
    ((List.range n).foldl divideStep w).getMsbD k = divided w.getMsbD n k := by
  induction n generalizing k with
  | zero => rfl
  | succ n ih =>
    have hstep : (List.range (n + 1)).foldl divideStep w = divideStep ((List.range n).foldl divideStep w) n := by
      rw [List.range_succ, List.foldl_append, List.foldl_cons, List.foldl_nil]
    rw [hstep, getMsbD_divideStep _ (by omega), ih (by omega), ih (by omega), divided_succ]

theorem getMsbD_divide (w : BitBuf) {L : Nat} (hL : L ≤ 112) (k : Nat) :
    (divide w L).getMsbD k = divided w.getMsbD (L - 24) k :=
  getMsbD_foldl_divideStep w (n := L - 24) (by omega) k

/-- Settles O25: the model's iterations are the rule's, whose zeros and untouched elements are known. -/
theorem divideIsTheBitSerialDivision : Obligations.DivideIsTheBitSerialDivision := by
  intro w L n hL28 hL112 hn k
  have hfold := getMsbD_foldl_divideStep w (show n ≤ 88 by omega) k.val
  exact ⟨hfold,
    fun hk => hfold.trans (divided_eq_false_of_lt _ hk),
    fun hk => hfold.trans (divided_eq_of_ge _ (by omega)),
    getMsbD_divide w hL112 k.val⟩

end Sys2Proof.Machine
end

section
/-! The remainder of the bit-serial division (R162) as a number: its bits, which sequences have the same one, and its
linearity. -/

namespace Sys2Proof.Machine

open Spec

theorem uintOf_succ (n : Nat) (f : Nat → Bool) : uintOf (n + 1) f = Nat.bit (f n) (uintOf n f) := by
  rw [← uint_map_range, ← uint_map_range, List.range_succ, List.map_append, uint_append, Nat.bit_val]
  simp [mul_comm]

/-- The bits of a sequence's number, the last element least significant (R11). -/
theorem testBit_uintOf (n : Nat) (f : Nat → Bool) (k : Nat) :
    (uintOf n f).testBit k = (decide (k < n) && f (n - 1 - k)) := by
  induction n generalizing k with
  | zero => simp [uintOf]
  | succ n ih =>
    rw [uintOf_succ]
    cases k with
    | zero => simp
    | succ k => simp [Nat.testBit_bit_succ, ih, Nat.sub_sub, Nat.add_comm 1 k]

theorem uintOf_lt (n : Nat) (f : Nat → Bool) : uintOf n f < 2 ^ n := by
  simpa [uint_map_range] using uint_lt ((List.range n).map f)

theorem uintOf_xor (n : Nat) (f g : Nat → Bool) : uintOf n (fun i => f i ^^ g i) = uintOf n f ^^^ uintOf n g :=
  Nat.eq_of_testBit_eq fun k => by simp [testBit_uintOf, Bool.and_xor_distrib_left]

theorem remainderOf_lt (f : Nat → Bool) (L : Nat) : remainderOf f L < 2 ^ 24 := uintOf_lt 24 _

/-- The remainder looks at the L elements of the sequence only. -/
theorem remainderOf_congr {f g : Nat → Bool} {L : Nat} (hL : 24 ≤ L) (h : ∀ k < L, f k = g k) :
    remainderOf f L = remainderOf g L :=
  uintOf_congr fun _ hj => divided_congr h (by omega) _ (by omega)

theorem remainderOf_xor (f g : Nat → Bool) (L : Nat) :
    remainderOf (fun i => f i ^^ g i) L = remainderOf f L ^^^ remainderOf g L := by
  simp only [remainderOf, divided_xor, uintOf_xor]

/-- A sequence with nothing before its last 24 elements is its own remainder. -/
theorem remainderOf_of_forall_false {f : Nat → Bool} {L : Nat} (h : ∀ i < L - 24, f i = false) :
    remainderOf f L = uintOf 24 fun j => f (L - 24 + j) := by
  rw [remainderOf, divided_of_forall_false h]

end Sys2Proof.Machine
end

section
/-! O26 and O27: the next state of CRCCHK and CRCENC on every text (R163, R164). -/

namespace Sys2Proof.Machine

open Spec

/-- The sequence that CRCENC divides: of L elements the last 24 are zero (R164). -/
def parityCleared (f : Nat → Bool) (L i : Nat) : Bool := decide (i < L - 24) && f i

theorem slice_seqOf {n : Nat} (v : BitVec n) {a b : Nat} (hb : b ≤ n) :
    slice (seqOf v) a b = (List.range (b - a)).map fun j => v.getMsbD (a + j) :=
  List.ext_getElem (by simp [hb]) fun j _ _ => by simp [slice]

/-- RES at the end of a CRC command is the remainder of the sequence in the first L elements of WORK (R162). -/
theorem finishCrc_of_getMsbD_eq (s : State) {w : BitBuf} {f : Nat → Bool} {L : Nat} (hL24 : 24 ≤ L) (hL112 : L ≤ 112)
    (h : ∀ k < L, w.getMsbD k = f k) :
    ∃ (r : Result) (v : BitBuf), r.toNat = remainderOf f L ∧
      s.finishCrc w L = { s with res := r, work := v, err := .ok } := by
  have hslice := slice_seqOf (divide w L) (a := L - 24) hL112
  rw [show L - (L - 24) = 24 by omega] at hslice
  have hlen : (slice (seqOf (divide w L)) (L - 24) L).length ≤ 112 := by rw [length_slice]; omega
  refine ⟨BitVec.ofNat 128 (remainder (divide w L) L), divide w L, ?_, rfl⟩
  calc (BitVec.ofNat 128 (remainder (divide w L) L)).toNat
      = uint (slice (seqOf (divide w L)) (L - 24) L) := toNat_ofNat_uint hlen
    _ = uintOf 24 fun j => (divide w L).getMsbD (L - 24 + j) := by rw [hslice, uint_map_range]
    _ = remainderOf w.getMsbD L := uintOf_congr fun j _ => getMsbD_divide w hL112 _
    _ = remainderOf f L := remainderOf_congr hL24 h

/-- The loaded message (R163). -/
theorem getMsbD_loadPrefix_map_range (w : BitBuf) (f : Nat → Bool) {L : Nat} (hL : L ≤ 112) :
    ∀ k < L, (loadPrefix w ((List.range L).map f)).getMsbD k = f k := by
  intro k hk
  have hk112 : k < 112 := by omega
  simp [loadPrefix, hk, hk112]

/-- The loaded message with its last 24 elements forced to zero (R164). -/
theorem getMsbD_clearRange_loadPrefix (w : BitBuf) (f : Nat → Bool) {L : Nat} (hL : L ≤ 112) :
    ∀ k < L, (clearRange (loadPrefix w ((List.range L).map f)) (L - 24) L).getMsbD k = parityCleared f L k := by
  intro k hk
  have hk112 : k < 112 := by omega
  have hclear : (!decide (L - 24 ≤ k ∧ k < L)) = decide (k < L - 24) := by
    rw [← decide_not, decide_eq_decide]
    omega
  rw [clearRange, getMsbD_ofSeqFn, hclear, getMsbD_loadPrefix_map_range w f hL k hk]
  simp [parityCleared, hk112]

/-- Settles O26: on a hex text of seven characters or more WORK begins with the message. -/
theorem crcchkGivesTheRemainderOrRaises : Obligations.CrcchkGivesTheRemainderOrRaises := by
  refine fun s len => ⟨fun h h7 => ?_, fun h h6 => ?_, fun h => ?_⟩
  · have htext := hexText_of_hexTextIn h
    have hL := four_mul_le_of_hexText htext
    obtain ⟨r, v, hr, he⟩ :=
      finishCrc_of_getMsbD_eq s (by omega) hL (getMsbD_loadPrefix_map_range s.work (hexBit s) hL)
    refine ⟨r, v, hr, ?_⟩
    rw [exec, execCrcchk, htext, ← he]
    exact if_neg (show ¬ 4 * len < 25 by omega)
  · rw [exec, execCrcchk, hexText_of_hexTextIn h]
    exact if_pos (show 4 * len < 25 by omega)
  · rw [exec, execCrcchk, hexText_of_noHexTextIn h]
    rfl

/-- Settles O27: as O26, with the message's last 24 bits cleared. -/
theorem crcencGivesTheParityOrRaises : Obligations.CrcencGivesTheParityOrRaises := by
  refine fun s len => ⟨fun h h7 => ?_, fun h h6 => ?_, fun h => ?_⟩
  · have htext := hexText_of_hexTextIn h
    have hL := four_mul_le_of_hexText htext
    obtain ⟨r, v, hr, he⟩ :=
      finishCrc_of_getMsbD_eq s (by omega) hL (getMsbD_clearRange_loadPrefix s.work (hexBit s) hL)
    refine ⟨r, v, hr, ?_⟩
    rw [exec, execCrcenc, htext, ← he]
    exact if_neg (show ¬ 4 * len < 25 by omega)
  · rw [exec, execCrcenc, hexText_of_hexTextIn h]
    exact if_pos (show 4 * len < 25 by omega)
  · rw [exec, execCrcenc, hexText_of_noHexTextIn h]
    rfl

/-- A CRCCHK that completes, in the terms of its remainder. -/
theorem exec_crcchk_completes {s : State} {len : Nat} (h : HexTextIn s len) (h7 : 7 ≤ len) :
    ∃ t, exec (.crcchk len) s = .next t ∧ t.err = .ok ∧ t.res.toNat = remainderOf (hexBit s) (4 * len) := by
  obtain ⟨r, w, hr, he⟩ := (crcchkGivesTheRemainderOrRaises s len).1 h h7
  exact ⟨_, he, rfl, hr⟩

/-- A CRCENC that completes, in the terms of its remainder. -/
theorem exec_crcenc_completes {s : State} {len : Nat} (h : HexTextIn s len) (h7 : 7 ≤ len) :
    ∃ t, exec (.crcenc len) s = .next t ∧ t.err = .ok ∧
      t.res.toNat = remainderOf (parityCleared (hexBit s) (4 * len)) (4 * len) := by
  obtain ⟨r, w, hr, he⟩ := (crcencGivesTheParityOrRaises s len).1 h h7
  exact ⟨_, he, rfl, hr⟩

end Sys2Proof.Machine
end

section
/-! O31, O33, O34 and O29: what the linearity of the division says of the two commands (R166, R168, L2.6). -/

namespace Sys2Proof.Machine

open Spec

theorem res_eq_xor_of_toNat {r p q : Result} (h : r.toNat = p.toNat ^^^ q.toNat) : r = p ^^^ q :=
  BitVec.eq_of_toNat_eq (h.trans (BitVec.toNat_xor ..).symm)

theorem parityCleared_xor {f g h : Nat → Bool} {L : Nat} (hxor : ∀ i < L, h i = (f i ^^ g i)) :
    parityCleared h L = fun i => parityCleared f L i ^^ parityCleared g L i := by
  funext i
  by_cases hi : i < L - 24
  · simp [parityCleared, hi, hxor i (by omega)]
  · simp [parityCleared, hi]

/-- Settles O31: the remainder of an XOR is the XOR of the remainders. -/
theorem crcIsLinear : Obligations.CrcIsLinear := by
  intro a b c len ha hb hc h7 hxor
  constructor
  · obtain ⟨ta, hta, -, hra⟩ := exec_crcchk_completes ha h7
    obtain ⟨tb, htb, -, hrb⟩ := exec_crcchk_completes hb h7
    obtain ⟨tc, htc, -, hrc⟩ := exec_crcchk_completes hc h7
    refine ⟨ta, tb, tc, hta, htb, htc, res_eq_xor_of_toNat ?_⟩
    rw [hra, hrb, hrc, remainderOf_congr (by omega) hxor, remainderOf_xor]
  · obtain ⟨ta, hta, -, hra⟩ := exec_crcenc_completes ha h7
    obtain ⟨tb, htb, -, hrb⟩ := exec_crcenc_completes hb h7
    obtain ⟨tc, htc, -, hrc⟩ := exec_crcenc_completes hc h7
    refine ⟨ta, tb, tc, hta, htb, htc, res_eq_xor_of_toNat ?_⟩
    rw [hra, hrb, hrc, parityCleared_xor hxor, remainderOf_xor]

/-- The cleared sequence does not look at the last six digits (R164). -/
theorem parityCleared_hexBit_congr {s s' : State} {len : Nat} (hlen : len ≤ 28)
    (h : ∀ k : Fin 112, k.val < len - 6 → s'.inBuf[k] = s.inBuf[k]) :
    parityCleared (hexBit s') (4 * len) = parityCleared (hexBit s) (4 * len) := by
  funext i
  by_cases hi : i < 4 * len - 24
  · have hdigit : digitAt s' (i / 4) = digitAt s (i / 4) := by
      have hk : i / 4 < 112 := by omega
      rw [digitAt_fin s' ⟨i / 4, hk⟩, digitAt_fin s ⟨i / 4, hk⟩, h ⟨i / 4, hk⟩ (by simp only; omega)]
    simp only [parityCleared, hexBit, hdigit]
  · simp [parityCleared, hi]

/-- Settles O33: the two cleared sequences are the same. -/
theorem crcencIgnoresTheParityCharacters : Obligations.CrcencIgnoresTheParityCharacters := by
  intro s s' len hs hs' h7 hagree
  obtain ⟨t, ht, herr, hr⟩ := exec_crcenc_completes hs h7
  obtain ⟨t', ht', herr', hr'⟩ := exec_crcenc_completes hs' h7
  obtain ⟨-, h28, -⟩ := hs
  refine ⟨t, t', ht, ht', herr, herr', BitVec.eq_of_toNat_eq ?_⟩
  rw [hr, hr', parityCleared_hexBit_congr h28 hagree]

/-- Four bits a digit denote the number of any stretch of digits (R11, R114). -/
theorem uintOf_hexBit (s : State) (a n : Nat) :
    (uintOf (4 * n) fun j => hexBit s (4 * a + j)) = hexNumber s a n := by
  have hlt (v : Nat) (hv : v ∈ (List.range n).map fun k => digitAt s (a + k)) : v < 16 := by
    obtain ⟨k, -, rfl⟩ := List.mem_map.mp hv
    exact digitAt_lt s _
  have hbit (j : Nat) : hexBit s (4 * a + j) = (digitAt s (a + j / 4)).testBit (3 - j % 4) := by
    rw [hexBit, Nat.mul_add_div (by decide), Nat.mul_add_mod]
  simp only [hbit]
  rw [← uint_map_range, ← flatMap_nibble_map_range (fun k => digitAt s (a + k)), uint_flatMap_nibble hlt,
    positional_map_range (val := base16) (digit := id) rfl fun _ _ => rfl]
  rfl

/-- A message is its cleared sequence XOR the sequence of its last 24 elements alone. -/
theorem remainderOf_eq_parityCleared_xor (f : Nat → Bool) (L : Nat) :
    remainderOf f L = remainderOf (parityCleared f L) L ^^^ uintOf 24 fun j => f (L - 24 + j) := by
  have hsplit : f = fun i => parityCleared f L i ^^ (!decide (i < L - 24) && f i) := by
    funext i
    by_cases hi : i < L - 24 <;> simp [parityCleared, hi]
  have hparity : remainderOf (fun i => !decide (i < L - 24) && f i) L = uintOf 24 fun j => f (L - 24 + j) := by
    rw [remainderOf_of_forall_false fun i hi => by simp [hi]]
    exact uintOf_congr fun j _ => by simp
  rw [← hparity, ← remainderOf_xor, ← hsplit]

/-- Settles O34: the parity's own remainder is itself. -/
theorem crcchkIsCrcencXorTheParity : Obligations.CrcchkIsCrcencXorTheParity := by
  intro s len h h7
  obtain ⟨t, ht, -, hr⟩ := exec_crcchk_completes h h7
  obtain ⟨u, hu, -, hr'⟩ := exec_crcenc_completes h h7
  have hparity : (uintOf 24 fun j => hexBit s (4 * len - 24 + j)) = hexNumber s (len - 6) 6 := by
    rw [← uintOf_hexBit, Nat.mul_sub]
  have hlt : hexNumber s (len - 6) 6 < 2 ^ 128 := by
    rw [← hparity]
    exact (uintOf_lt 24 _).trans (by decide)
  refine ⟨t, u, ht, hu, res_eq_xor_of_toNat ?_⟩
  rw [hr, hr', BitVec.toNat_ofNat, Nat.mod_eq_of_lt hlt, remainderOf_eq_parityCleared_xor, hparity]

/-- The six hex digits of a 24-bit number, most significant first, denote it. -/
theorem hexNumber_of_digits {s : State} {a v : Nat} (hv : v < 2 ^ 24)
    (h : ∀ j < 6, digitAt s (a + j) = v >>> (20 - 4 * j) % 16) : hexNumber s a 6 = v := by
  have hsum : hexNumber s a 6 = ∑ j ∈ Finset.range 6, v >>> (20 - 4 * j) % 16 * 16 ^ (5 - j) :=
    Finset.sum_congr rfl fun j hj => by rw [h j (Finset.mem_range.mp hj)]
  simp only [hsum, Finset.sum_range_succ, Finset.sum_range_zero, Nat.shiftRight_eq_div_pow]
  omega

/-- A text stays a hex text when other hex digits replace its last six characters. -/
theorem hexTextIn_of_last_digits {s s' : State} {len : Nat} (hs : HexTextIn s len)
    (hagree : ∀ k : Fin 112, k.val < len - 6 → s'.inBuf[k] = s.inBuf[k])
    (hdigits : ∀ j < 6, ((s'.inBuf[len - 6 + j]?).bind hexval).isSome) : HexTextIn s' len := by
  obtain ⟨h1, h28, hdigit⟩ := hs
  refine ⟨h1, h28, fun k hk => ?_⟩
  by_cases hk6 : k.val < len - 6
  · rw [hagree k hk6]
    exact hdigit k hk
  · have hlast := hdigits (k.val - (len - 6)) (by omega)
    rw [Nat.add_sub_cancel' (not_lt.mp hk6)] at hlast
    simpa using hlast

/-- Settles O29: the new text is a hex text with the same CRCENC result, which its parity repeats. -/
theorem encodedMessageChecksToZero : Obligations.EncodedMessageChecksToZero := by
  intro s s' t len hs h7 ht hagree hdigits
  obtain ⟨u, hu, -, hr⟩ := exec_crcenc_completes hs h7
  cases hu.symm.trans ht
  have hs' : HexTextIn s' len := hexTextIn_of_last_digits hs hagree fun j hj => by rw [hdigits j hj, Option.isSome_some]
  have hparity : hexNumber s' (len - 6) 6 = t.res.toNat :=
    hexNumber_of_digits (hr ▸ remainderOf_lt _ _) fun j hj => by rw [digitAt, hdigits j hj, Option.getD_some]
  obtain ⟨t', ht', herr, -⟩ := exec_crcchk_completes hs' h7
  obtain ⟨v, v', hv, hv', hres⟩ := crcchkIsCrcencXorTheParity s' len hs' h7
  obtain ⟨x, x', hx, hx', -, -, hsame⟩ := crcencIgnoresTheParityCharacters s s' len hs hs' h7 hagree
  cases ht'.symm.trans hv
  cases hv'.symm.trans hx'
  cases ht.symm.trans hx
  refine ⟨t', ht', herr, ?_⟩
  rw [hres, hsame, hparity, BitVec.ofNat_toNat, BitVec.setWidth_eq, BitVec.xor_self]

end Sys2Proof.Machine
end

section
/-! O28 and O30: the bit-serial division as division of polynomials over GF(2), and what a single bit's remainder is
(R165, R167). -/

namespace Sys2Proof.Machine

open Spec Polynomial

/-! ## Bit sequences as polynomials -/

/-- The polynomial whose coefficients are f(0), ..., f(n-1), the last one that of x^0 (R165). -/
noncomputable def seqPoly (n : Nat) (f : Nat → Bool) : (ZMod 2)[X] :=
  ∑ i ∈ Finset.range n, if f i then X ^ (n - 1 - i) else 0

theorem seqPoly_congr {n : Nat} {f g : Nat → Bool} (h : ∀ i < n, f i = g i) : seqPoly n f = seqPoly n g :=
  Finset.sum_congr rfl fun i hi => by rw [h i (Finset.mem_range.mp hi)]

theorem seqPoly_of_forall_false {n : Nat} {f : Nat → Bool} (h : ∀ i < n, f i = false) : seqPoly n f = 0 :=
  Finset.sum_eq_zero fun i hi => by simp [h i (Finset.mem_range.mp hi)]

theorem seqPoly_one (f : Nat → Bool) : seqPoly 1 f = if f 0 then 1 else 0 := by
  simp only [seqPoly, Finset.sum_range_one, Nat.sub_self, pow_zero]

/-- A sequence in two parts: the first is shifted up by the length of the second. -/
theorem seqPoly_add (a b : Nat) (f : Nat → Bool) :
    seqPoly (a + b) f = seqPoly a f * X ^ b + seqPoly b fun i => f (a + i) := by
  rw [seqPoly, seqPoly, seqPoly, Finset.sum_range_add, Finset.sum_mul]
  congr 1
  · refine Finset.sum_congr rfl fun i hi => ?_
    have hexp : a + b - 1 - i = a - 1 - i + b := by rw [Finset.mem_range] at hi; omega
    rw [hexp, pow_add, ite_mul, zero_mul]
  · refine Finset.sum_congr rfl fun i _ => ?_
    have hexp : a + b - 1 - (a + i) = b - 1 - i := by omega
    rw [hexp]

/-- XOR is addition over GF(2). -/
theorem seqPoly_xor (n : Nat) (f g : Nat → Bool) : seqPoly n (fun i => f i ^^ g i) = seqPoly n f + seqPoly n g := by
  rw [seqPoly, seqPoly, seqPoly, ← Finset.sum_add_distrib]
  refine Finset.sum_congr rfl fun i _ => ?_
  cases f i <;> cases g i <;> simp [CharTwo.add_self_eq_zero]

theorem seqPoly_and (n : Nat) (b : Bool) (f : Nat → Bool) :
    seqPoly n (fun i => b && f i) = if b then seqPoly n f else 0 := by
  cases b <;> simp [seqPoly]

/-- The sequence whose only 1 is at index i. -/
theorem seqPoly_single {n i : Nat} (h : i < n) : seqPoly n (fun j => decide (j = i)) = X ^ (n - 1 - i) := by
  simp [seqPoly, h]

theorem degree_seqPoly_lt (n : Nat) (f : Nat → Bool) : (seqPoly n f).degree < n := by
  refine mem_degreeLT.mp (Submodule.sum_mem _ fun i hi => mem_degreeLT.mpr ?_)
  rw [Finset.mem_range] at hi
  split
  · rw [degree_X_pow]
    exact_mod_cast (show n - 1 - i < n by omega)
  · simp

/-- The number of a sequence has the sequence's coefficients as its bits. -/
theorem sum_getLsbD_eq_seqPoly {r : Result} {n : Nat} {f : Nat → Bool} (h : r.toNat = uintOf n f) :
    (∑ k ∈ Finset.range n, if r.getLsbD k then (X ^ k : (ZMod 2)[X]) else 0) = seqPoly n f := by
  rw [seqPoly, ← Finset.sum_range_reflect]
  refine Finset.sum_congr rfl fun i hi => ?_
  rw [Finset.mem_range] at hi
  have hlt : n - 1 - i < n := by omega
  have hi' : n - 1 - (n - 1 - i) = i := by omega
  rw [← BitVec.testBit_toNat, h, testBit_uintOf, hi']
  simp [hlt]

/-! ## The generator -/

/-- G(x) of R160. -/
noncomputable def generator : (ZMod 2)[X] := (∑ k ∈ Finset.range 13, X ^ (12 + k)) + X ^ 10 + X ^ 3 + 1

theorem seqPoly_G : seqPoly 25 G = generator := by
  rw [generator, ← Finset.sum_range_reflect]
  simp [seqPoly, G, Finset.sum_range_succ]

theorem generator_eq_X_pow_add : generator = X ^ 24 + seqPoly 24 fun j => G (1 + j) := by
  rw [← seqPoly_G, seqPoly_add 1 24]
  simp [seqPoly_one, G]

theorem generator_monic : generator.Monic := by
  rw [generator_eq_X_pow_add]
  exact monic_X_pow_add (degree_seqPoly_lt 24 _)

theorem degree_generator : generator.degree = 24 := by
  rw [generator_eq_X_pow_add, degree_add_eq_left_of_degree_lt, degree_X_pow]
  · rfl
  · rw [degree_X_pow]
    exact degree_seqPoly_lt 24 _

/-- The generator's constant term is 1, so it shares no factor with a power of x. -/
theorem isCoprime_generator_X_pow (m : Nat) : IsCoprime generator (X ^ m) := by
  have hlast : generator = seqPoly 24 G * X + 1 := by
    rw [← seqPoly_G, seqPoly_add 24 1, pow_one]
    simp [seqPoly_one, G]
  refine IsCoprime.pow_right ⟨1, -seqPoly 24 G, ?_⟩
  rw [hlast]
  ring

theorem not_generator_dvd_X_pow (m : Nat) : ¬ generator ∣ X ^ m := by
  intro h
  have hunit : IsUnit generator := (isCoprime_generator_X_pow m).isUnit_of_dvd' dvd_rfl h
  have hdegree := degree_eq_zero_of_isUnit hunit
  rw [degree_generator] at hdegree
  exact absurd hdegree (by decide)

/-! ## The division -/

/-- A window is a multiple of the generator. -/
theorem generator_dvd_seqPoly_windowBit {i L : Nat} (h : i + 25 ≤ L) : generator ∣ seqPoly L (windowBit i) := by
  obtain ⟨m, rfl⟩ := Nat.exists_eq_add_of_le h
  have hbefore : seqPoly i (windowBit i) = 0 := seqPoly_of_forall_false fun k hk => windowBit_of_lt hk
  have hafter : (seqPoly m fun k => windowBit i (i + 25 + k)) = 0 :=
    seqPoly_of_forall_false fun k _ => windowBit_of_ge (by omega)
  have hwindow : (seqPoly 25 fun k => windowBit i (i + k)) = generator :=
    (seqPoly_congr fun k hk => windowBit_add hk).trans seqPoly_G
  rw [seqPoly_add, seqPoly_add, hbefore, hafter, hwindow, zero_mul, zero_add, add_zero]
  exact dvd_mul_right _ _

/-- Each iteration keeps the sequence's polynomial modulo the generator. -/
theorem generator_dvd_seqPoly_sub_divided (f : Nat → Bool) {n L : Nat} (h : n + 24 ≤ L) :
    generator ∣ seqPoly L f - seqPoly L (divided f n) := by
  induction n with
  | zero => simp [divided]
  | succ n ih =>
    have hstep : seqPoly L (divided f (n + 1)) =
        seqPoly L (divided f n) + if divided f n n then seqPoly L (windowBit n) else 0 := by
      rw [← seqPoly_and, ← seqPoly_xor]
      exact seqPoly_congr fun k _ => divided_succ f n k
    have hflip : generator ∣ if divided f n n then seqPoly L (windowBit n) else 0 := by
      split
      · exact generator_dvd_seqPoly_windowBit (by omega)
      · exact dvd_zero _
    rw [hstep, ← sub_sub]
    exact (ih (by omega)).sub hflip

/-- The last 24 elements that the division leaves are the polynomial remainder. -/
theorem seqPoly_divided_eq_modByMonic (f : Nat → Bool) {L : Nat} (hL : 24 ≤ L) :
    (seqPoly 24 fun j => divided f (L - 24) (L - 24 + j)) = seqPoly L f %ₘ generator := by
  have hzeros : seqPoly (L - 24) (divided f (L - 24)) = 0 :=
    seqPoly_of_forall_false fun k hk => divided_eq_false_of_lt f hk
  have hlast : seqPoly L (divided f (L - 24)) = seqPoly 24 fun j => divided f (L - 24) (L - 24 + j) := by
    conv_lhs => rw [← Nat.sub_add_cancel hL]
    rw [seqPoly_add, Nat.add_sub_cancel, hzeros, zero_mul, zero_add]
  rw [modByMonic_eq_of_dvd_sub generator_monic (generator_dvd_seqPoly_sub_divided f (n := L - 24) (by omega)), hlast,
    eq_comm, modByMonic_eq_self_iff generator_monic, degree_generator]
  exact degree_seqPoly_lt 24 _

/-- RES as a polynomial, from RES as the remainder of the bit-serial division. -/
theorem sum_getLsbD_eq_modByMonic {r : Result} {f : Nat → Bool} {L : Nat} (hL : 24 ≤ L)
    (h : r.toNat = remainderOf f L) :
    (∑ k ∈ Finset.range 24, if r.getLsbD k then (X ^ k : (ZMod 2)[X]) else 0) = seqPoly L f %ₘ generator :=
  (sum_getLsbD_eq_seqPoly h).trans (seqPoly_divided_eq_modByMonic f hL)

/-- The cleared sequence is the data shifted up by the width of the parity. -/
theorem seqPoly_parityCleared (f : Nat → Bool) {L : Nat} (hL : 24 ≤ L) :
    seqPoly L (parityCleared f L) = seqPoly (L - 24) f * X ^ 24 := by
  have hdata : seqPoly (L - 24) (parityCleared f L) = seqPoly (L - 24) f :=
    seqPoly_congr fun i hi => by simp [parityCleared, hi]
  have hparity : (seqPoly 24 fun j => parityCleared f L (L - 24 + j)) = 0 :=
    seqPoly_of_forall_false fun j _ => by simp [parityCleared]
  have hsplit := seqPoly_add (L - 24) 24 (parityCleared f L)
  rwa [Nat.sub_add_cancel hL, hdata, hparity, add_zero] at hsplit

/-- Settles O28: CRCCHK divides the message, CRCENC the data shifted up. -/
theorem crcIsThePolynomialRemainder : Obligations.CrcIsThePolynomialRemainder := by
  intro s len h h7
  obtain ⟨t, ht, hterr, hr⟩ := exec_crcchk_completes h h7
  obtain ⟨u, hu, huerr, hr'⟩ := exec_crcenc_completes h h7
  have hL : 24 ≤ 4 * len := by omega
  refine ⟨t, u, ht, hu, hterr, huerr, hr ▸ remainderOf_lt _ _, hr' ▸ remainderOf_lt _ _,
    sum_getLsbD_eq_modByMonic hL hr, ?_⟩
  rw [sum_getLsbD_eq_modByMonic hL hr', seqPoly_parityCleared _ hL, seqPoly]
  simp only [Nat.sub_sub]
  rfl

/-- A message whose result is zero is a multiple of the generator. -/
theorem generator_dvd_of_res_eq_zero {r : Result} {f : Nat → Bool} {L : Nat} (hL : 24 ≤ L)
    (h : r.toNat = remainderOf f L) (hr : r = 0#128) : generator ∣ seqPoly L f := by
  subst hr
  rw [← modByMonic_eq_zero_iff_dvd generator_monic, ← sum_getLsbD_eq_modByMonic hL h]
  simp

/-- Settles O30: the two messages differ by a power of x, which the generator does not divide. -/
theorem singleBitFlipIsDetected : Obligations.SingleBitFlipIsDetected := by
  intro s s' t len i hs hs' h7 hi ht hzero hflip
  obtain ⟨u, hu, -, hr⟩ := exec_crcchk_completes hs h7
  obtain ⟨t', ht', herr, hr'⟩ := exec_crcchk_completes hs' h7
  cases hu.symm.trans ht
  have hL : 24 ≤ 4 * len := by omega
  refine ⟨t', ht', herr, fun hzero' => not_generator_dvd_X_pow (4 * len - 1 - i) ?_⟩
  have hsum : seqPoly (4 * len) (hexBit s') = seqPoly (4 * len) (hexBit s) + X ^ (4 * len - 1 - i) := by
    rw [← seqPoly_single hi, ← seqPoly_xor]
    exact seqPoly_congr hflip
  have hdvd := generator_dvd_of_res_eq_zero hL hr hzero
  have hdvd' := generator_dvd_of_res_eq_zero hL hr' hzero'
  rw [hsum] at hdvd'
  exact (dvd_add_right hdvd).mp hdvd'

end Sys2Proof.Machine
end

section
/-! O35 to O37: the address classification of every text, the bands' own bounds, and the addresses outside every band
(R191, R193, R194). -/

namespace Sys2Proof.Machine

open Spec

/-- ICAOCHK writes the classification into RES and completes, on every text (R191). -/
theorem exec_icaochk (abs : Bool) (len : Nat) (s : State) :
    exec (.icaochk abs len) s =
      .next { s with res := BitVec.ofNat 128 (s.icaoAssigned abs len).toNat, err := .ok } := rfl

/-! ## The classification, case by case -/

theorem icaoAssigned_absent (s : State) (len : Nat) : s.icaoAssigned true len = false := rfl

theorem icaoAssigned_of_len_ne_six {len : Nat} (h : len ≠ 6) (s : State) : s.icaoAssigned false len = false := by
  simp [State.icaoAssigned, h]

theorem icaoAssigned_of_noHexTextIn {s : State} (h : NoHexTextIn s 6) : s.icaoAssigned false 6 = false := by
  obtain h0 | h28 | hbad := h
  · cases h0
  · exact absurd h28 (by decide)
  · simp [State.icaoAssigned, digits_inText_eq_none hbad]

theorem icaoAssigned_of_hexTextIn {s : State} (h : HexTextIn s 6) :
    s.icaoAssigned false 6 = !excluded (hexNumber s 0 6) := by
  simp [State.icaoAssigned, digits_hexval_of_hexTextIn h, base16_map_digitAt]

/-! ## The bands -/

/-- An excluded address lies strictly inside a band of R190's table. -/
theorem excluded_iff (a : Nat) : excluded a = true ↔ ∃ band ∈ bandTable, band.1 < a ∧ a < band.2 := by
  have htable : bands = bandTable := rfl
  simp [excluded, htable]

/-- No bound of a band lies strictly inside any band of the table. -/
theorem excluded_band_bounds : ∀ band ∈ bandTable, excluded band.1 = false ∧ excluded band.2 = false := by decide

/-- The 24-bit addresses outside every band are the ranges between two neighbours, both ends included (R194). -/
theorem excluded_eq_false_iff_listed {a : Nat} (ha : a < 2 ^ 24) :
    excluded a = false ↔
      (a ≤ 0x200000 ∨ (0x27FFFF ≤ a ∧ a ≤ 0x280000) ∨ (0x28FFFF ≤ a ∧ a ≤ 0x500000) ∨
       (0x5FFFFF ≤ a ∧ a ≤ 0x600000) ∨ (0x67FFFF ≤ a ∧ a ≤ 0x680000) ∨ (0x6F0000 ≤ a ∧ a ≤ 0x900000) ∨
       (0x9FFFFF ≤ a ∧ a ≤ 0xB00000) ∨ (0xBFFFFF ≤ a ∧ a ≤ 0xD00000) ∨ (0xDFFFFF ≤ a ∧ a ≤ 0xF00000) ∨
       a = 0xFFFFFF) := by
  rw [← Bool.not_eq_true, excluded_iff]
  simp only [bandTable, List.mem_cons, List.not_mem_nil, or_false, exists_eq_or_imp, exists_eq_left]
  omega

/-- Six hex digits make a 24-bit address. -/
theorem hexNumber_six_lt (s : State) : hexNumber s 0 6 < 2 ^ 24 := by
  have hlt := uint_lt ((List.range (4 * 6)).map (hexBit s))
  rwa [uint_map_hexBit, List.length_map, List.length_range] at hlt

/-! ## The statements -/

/-- Settles O35: RES is the classification, which each clause fixes by its own case. -/
theorem icaochkClassifiesTheAddress : Obligations.IcaochkClassifiesTheAddress := by
  refine fun s abs len => ⟨_, exec_icaochk abs len s, ?absent, ?length, ?noHex, ?inside, ?outside⟩
  case absent =>
    rintro rfl
    rw [icaoAssigned_absent]
    rfl
  case length =>
    rintro rfl h6
    rw [icaoAssigned_of_len_ne_six h6]
    rfl
  case noHex =>
    rintro rfl rfl hno
    rw [icaoAssigned_of_noHexTextIn hno]
    rfl
  case inside =>
    rintro rfl rfl hhex hband
    rw [icaoAssigned_of_hexTextIn hhex, (excluded_iff _).mpr hband]
    rfl
  case outside =>
    rintro rfl rfl hhex hband
    rw [← excluded_iff, Bool.not_eq_true] at hband
    rw [icaoAssigned_of_hexTextIn hhex, hband]
    rfl

/-- Settles O36: both comparisons are strict, and no two bands overlap. -/
theorem bandEndpointsAreAssigned : Obligations.BandEndpointsAreAssigned := by
  intro s band hmem hhex hbound
  obtain ⟨hlo, hhi⟩ := excluded_band_bounds band hmem
  have hassigned : excluded (hexNumber s 0 6) = false := by
    obtain h | h := hbound
    · rw [h, hlo]
    · rw [h, hhi]
  rw [exec_icaochk, icaoAssigned_of_hexTextIn hhex, hassigned]
  rfl

/-- Settles O37: RES is 1 exactly outside every band. -/
theorem assignedAddressesAreTheListedRanges : Obligations.AssignedAddressesAreTheListedRanges := by
  intro s hhex
  refine ⟨_, exec_icaochk false 6 s, ?_⟩
  rw [← excluded_eq_false_iff_listed (hexNumber_six_lt s), icaoAssigned_of_hexTextIn hhex]
  cases excluded (hexNumber s 0 6) <;> simp

end Sys2Proof.Machine
end

section
/-! O10, O38 and O39: what an idle step leaves as it is, what a raising command leaves as it is, and which causes raise which
error code (R210, R212, R213, R221). -/

namespace Sys2Proof.Machine

open Spec

/-- Settles O10: an idle step only forgets WORK. -/
theorem idleStepChangesOnlyWork : Obligations.IdleStepChangesOnlyWork := fun _ h => step_of_pending_nil h

/-! ## What a raising command leaves -/

/-- Of the effects of a command only a raised error ends with ERR other than OK. -/
theorem Effect.eq_raise_of_err_ne_ok {i : Instr} {s t : State} (h : Effect i s t) (herr : t.err ≠ .ok) :
    t = s.raise t.err := by
  cases h with
  | raise e he => rfl
  | _ => exact absurd rfl herr

/-- Settles O38: an illegal word raises, and so does a command that ends with an error. -/
theorem raisingCommandChangesOnlyErr : Obligations.RaisingCommandChangesOnlyErr := by
  intro w s t h herr
  cases hd : decode w with
  | ok i =>
    rw [execute_of_decode_ok hd] at h
    exact (effect_of_exec h).eq_raise_of_err_ne_ok herr
  | error e =>
    rw [execute_of_decode_error hd] at h
    cases h
    rfl

/-! ## The causes of the error codes -/

/-- R102 raises on exactly the texts it does not accept. -/
theorem not_noHexTextIn_iff {s : State} {len : Nat} : ¬ NoHexTextIn s len ↔ HexTextIn s len := by
  simp only [NoHexTextIn, HexTextIn, not_or, not_exists, not_and, not_lt, Option.isSome_iff_ne_none,
    Nat.one_le_iff_ne_zero, ne_eq]

/-- R111 raises on exactly the texts it does not accept. -/
theorem not_noBinTextIn_iff {s : State} {len : Nat} : ¬ NoBinTextIn s len ↔ BinTextIn s len := by
  simp only [NoBinTextIn, BinTextIn, not_or, not_exists, not_and, not_lt, not_not, ne_eq, ← or_iff_not_imp_left,
    Nat.one_le_iff_ne_zero]

/-- The code that the causes of a command call for: InvalidInput, else ShortMessage, else OK (R212); no command has causes for
both errors. -/
inductive Caused (i : Instr) (s : State) : ErrCode → Prop where
  | invalid (hinvalid : invalidCause i s) (hshort : ¬ shortCause i s) : Caused i s .invalidInput
  | short (hinvalid : ¬ invalidCause i s) (hshort : shortCause i s) : Caused i s .shortMessage
  | completed (hinvalid : ¬ invalidCause i s) (hshort : ¬ shortCause i s) : Caused i s .ok

/-- A command that reads a hex text of more than n characters: it raises InvalidInput on no hex text, ShortMessage on a hex
text of at most n characters, and else completes. -/
theorem exists_caused_of_hexText {i : Instr} {s : State} {len n : Nat} (hinvalid : invalidCause i s ↔ NoHexTextIn s len)
    (hshort : shortCause i s ↔ HexTextIn s len ∧ len ≤ n)
    (hraise : NoHexTextIn s len → exec i s = .next (s.raise .invalidInput))
    (hraiseShort : HexTextIn s len → len ≤ n → exec i s = .next (s.raise .shortMessage))
    (hnext : HexTextIn s len → n < len → ∃ t, exec i s = .next t ∧ t.err = .ok) :
    ∃ t, exec i s = .next t ∧ Caused i s t.err := by
  by_cases hno : NoHexTextIn s len
  · exact ⟨_, hraise hno, .invalid (hinvalid.mpr hno) fun h => not_noHexTextIn_iff.mpr (hshort.mp h).1 hno⟩
  · have hhex := not_noHexTextIn_iff.mp hno
    have hvalid := mt hinvalid.mp hno
    by_cases hlen : len ≤ n
    · exact ⟨_, hraiseShort hhex hlen, .short hvalid (hshort.mpr ⟨hhex, hlen⟩)⟩
    · obtain ⟨t, he, hok⟩ := hnext hhex (by omega)
      exact ⟨t, he, hok ▸ .completed hvalid fun h => hlen (hshort.mp h).2⟩

/-- Every command ends with the code that its causes call for. -/
theorem exec_caused (i : Instr) (s : State) : ∃ t, exec i s = .next t ∧ Caused i s t.err := by
  cases i with
  | hex2bin len =>
    obtain ⟨hload, hraise⟩ := hex2binLoadsTheBitsOrRaises s len
    by_cases hno : NoHexTextIn s len
    · exact ⟨_, hraise hno, .invalid hno id⟩
    · obtain ⟨b, -, he⟩ := hload (not_noHexTextIn_iff.mp hno)
      exact ⟨_, he, .completed hno id⟩
  | binload len =>
    obtain ⟨hload, hraise⟩ := binloadLoadsTheBitsOrRaises s len
    by_cases hno : NoBinTextIn s len
    · exact ⟨_, hraise hno, .invalid hno id⟩
    · obtain ⟨b, -, he⟩ := hload (not_noBinTextIn_iff.mp hno)
      exact ⟨_, he, .completed hno id⟩
  | binstore => exact ⟨_, rfl, .completed id id⟩
  | bin2int =>
    obtain ⟨hempty, he⟩ | ⟨hne, he⟩ := execBin2int_cases s
    · exact ⟨_, he, .invalid hempty id⟩
    · exact ⟨_, he, .completed hne id⟩
  | hex2int len =>
    obtain ⟨hnumber, hraise⟩ := hex2intGivesTheNumberOrRaises s len
    by_cases hno : NoHexTextIn s len
    · exact ⟨_, hraise hno, .invalid hno id⟩
    · obtain ⟨r, -, -, he⟩ := hnumber (not_noHexTextIn_iff.mp hno)
      exact ⟨_, he, .completed hno id⟩
  | dfx len =>
    obtain ⟨hnext, hshort, hraise⟩ := dfxGivesTheFirstFiveBitsOrRaises s len
    have hone (hhex : HexTextIn s len) : len = 1 ↔ len ≤ 1 := by
      obtain ⟨h1, -⟩ := hhex
      omega
    refine exists_caused_of_hexText Iff.rfl (and_congr_right hone) hraise (fun hhex h => hshort hhex ((hone hhex).mpr h))
      fun hhex h2 => ?_
    obtain ⟨r, -, he⟩ := hnext hhex h2
    exact ⟨_, he, rfl⟩
  | crcchk len =>
    obtain ⟨-, hshort, hraise⟩ := crcchkGivesTheRemainderOrRaises s len
    refine exists_caused_of_hexText Iff.rfl Iff.rfl hraise hshort fun hhex h7 => ?_
    obtain ⟨t, he, hok, -⟩ := exec_crcchk_completes hhex h7
    exact ⟨t, he, hok⟩
  | crcenc len =>
    obtain ⟨-, hshort, hraise⟩ := crcencGivesTheParityOrRaises s len
    refine exists_caused_of_hexText Iff.rfl Iff.rfl hraise hshort fun hhex h7 => ?_
    obtain ⟨t, he, hok, -⟩ := exec_crcenc_completes hhex h7
    exact ⟨t, he, hok⟩
  | icaochk abs len => exact ⟨_, exec_icaochk abs len s, .completed id id⟩

/-- The inversion of `exec` for ERR. -/
theorem caused_of_exec {i : Instr} {s t : State} (h : exec i s = .next t) : Caused i s t.err := by
  obtain ⟨u, hu, hcaused⟩ := exec_caused i s
  cases hu.symm.trans h
  exact hcaused

/-- IllegalCommand is no command's outcome. -/
theorem Caused.ne_illegalCommand {i : Instr} {s : State} {e : ErrCode} (h : Caused i s e) : e ≠ .illegalCommand := by
  cases h <;> decide

/-- Each code is called for by its own causes only. -/
theorem Caused.code_iff {i : Instr} {s : State} {e : ErrCode} (h : Caused i s e) :
    (e = .invalidInput ↔ invalidCause i s) ∧ (e = .shortMessage ↔ shortCause i s) ∧
    (e = .ok ↔ ¬ invalidCause i s ∧ ¬ shortCause i s) := by
  cases h with
  | invalid hinvalid hshort => simp [hinvalid, hshort]
  | short hinvalid hshort => simp [hinvalid, hshort]
  | completed hinvalid hshort => simp [hinvalid, hshort]

theorem execute_err_eq_illegalCommand_iff {w : Word} {s t : State} (h : execute w s = .next t) :
    t.err = .illegalCommand ↔ ∃ e, decode w = .error e := by
  cases hd : decode w with
  | ok i =>
    rw [execute_of_decode_ok hd] at h
    simp [(caused_of_exec h).ne_illegalCommand]
  | error e =>
    rw [execute_of_decode_error hd] at h
    cases h
    simp

/-- Settles O39: a word that decodes ends with the code that its command's causes call for. -/
theorem errorCodesHaveExactlyTheirCauses : Obligations.ErrorCodesHaveExactlyTheirCauses :=
  ⟨fun _ _ _ => execute_err_eq_illegalCommand_iff, fun _ _ _ h => (caused_of_exec h).code_iff⟩

end Sys2Proof.Machine
end

section
/-! O11, O44 and O53: what a reset event leaves, what the commands give on the blank text of reset, and what a read sees after a
command (R240, R243, R244). -/

namespace Sys2Proof.Machine

open Spec

/-- Settles O11: the step serves the reset, whatever access it abandons. -/
theorem resetEventSetsTheResetValues : Obligations.ResetEventSetsTheResetValues := fun s a rest =>
  step_of_pending_cons (s := facing s (.reset a) rest) rfl

/-! ## Blank input -/

/-- 0x00 is no hex digit (R100), so a blank IN holds no hex text of any length. -/
theorem noHexTextIn_of_blank {s : State} (h : s.inBuf = State.reset.inBuf) (len : Nat) : NoHexTextIn s len := by
  obtain rfl | hpos := Nat.eq_zero_or_pos len
  · exact .inl rfl
  · exact .inr (.inr ⟨0, hpos, by rw [h]; rfl⟩)

/-- 0x00 is no binary digit (R101), so a blank IN holds no binary text of any length. -/
theorem noBinTextIn_of_blank {s : State} (h : s.inBuf = State.reset.inBuf) (len : Nat) : NoBinTextIn s len := by
  obtain rfl | hpos := Nat.eq_zero_or_pos len
  · exact .inl rfl
  · exact .inr (.inr ⟨0, hpos, by rw [h]; decide, by rw [h]; decide⟩)

/-- Only a hex text is an assigned address (R191). -/
theorem icaoAssigned_of_blank {s : State} (h : s.inBuf = State.reset.inBuf) (abs : Bool) (len : Nat) :
    s.icaoAssigned abs len = false := by
  cases abs with
  | true => exact icaoAssigned_absent s len
  | false =>
    by_cases h6 : len = 6
    · rw [h6, icaoAssigned_of_noHexTextIn (noHexTextIn_of_blank h 6)]
    · exact icaoAssigned_of_len_ne_six h6 s

/-- Settles O44: each text command raises, as it does whenever IN holds no text for it. -/
theorem blankInputMakesTextCommandsRaise : Obligations.BlankInputMakesTextCommandsRaise := by
  intro s len abs h
  have hhex := noHexTextIn_of_blank h len
  obtain ⟨-, hhex2bin⟩ := hex2binLoadsTheBitsOrRaises s len
  obtain ⟨-, hbinload⟩ := binloadLoadsTheBitsOrRaises s len
  obtain ⟨-, hhex2int⟩ := hex2intGivesTheNumberOrRaises s len
  obtain ⟨-, -, hdfx⟩ := dfxGivesTheFirstFiveBitsOrRaises s len
  obtain ⟨-, -, hcrcchk⟩ := crcchkGivesTheRemainderOrRaises s len
  obtain ⟨-, -, hcrcenc⟩ := crcencGivesTheParityOrRaises s len
  refine ⟨hhex2bin hhex, hbinload (noBinTextIn_of_blank h len), hhex2int hhex, hdfx hhex, hcrcchk hhex, hcrcenc hhex, ?_⟩
  rw [exec_icaochk, icaoAssigned_of_blank h]
  rfl

/-! ## The read after a command -/

theorem ite_eq_onNext {c : Prop} [Decidable c] {a a' b b' : Host.Outcome State Fault Refusal} {f : State → State}
    (ha : a' = onNext a f) (hb : b' = onNext b f) : (if c then a' else b') = onNext (if c then a else b) f := by
  split
  · exact ha
  · exact hb

/-- No command reads or writes the queue: run with another queue, it does the same (log 3). -/
theorem exec_withPending (i : Instr) (s : State) (q : List HostEvent) :
    exec i { s with pending := q } = onNext (exec i s) fun t => { t with pending := q } := by
  have hhex (len : Nat) : State.hexText { s with pending := q } len = s.hexText len := hexText_congr rfl len
  have hbin (len : Nat) : State.binText { s with pending := q } len = s.binText len := binText_congr rfl len
  cases i with
  | hex2bin len =>
    simp only [exec, execHex2bin, hhex]
    cases s.hexText len <;> rfl
  | binload len =>
    simp only [exec, execBinload, hbin]
    cases s.binText len <;> rfl
  | binstore => rfl
  | bin2int => exact ite_eq_onNext rfl rfl
  | hex2int len =>
    simp only [exec, execHex2int, hhex]
    cases s.hexText len <;> rfl
  | dfx len =>
    simp only [exec, execDfx, hhex]
    cases s.hexText len with
    | none => rfl
    | some seq => exact ite_eq_onNext rfl rfl
  | crcchk len =>
    simp only [exec, execCrcchk, hhex]
    cases s.hexText len with
    | none => rfl
    | some seq => exact ite_eq_onNext rfl rfl
  | crcenc len =>
    simp only [exec, execCrcenc, hhex]
    cases s.hexText len with
    | none => rfl
    | some seq => exact ite_eq_onNext rfl rfl
  | icaochk abs len => rfl

theorem execute_withPending (w : Word) (s : State) (q : List HostEvent) :
    execute w { s with pending := q } = onNext (execute w s) fun t => { t with pending := q } := by
  cases hd : decode w with
  | ok i => rw [execute_of_decode_ok hd, execute_of_decode_ok hd, exec_withPending]
  | error e =>
    rw [execute_of_decode_error hd, execute_of_decode_error hd]
    rfl

theorem execute_replies {w : Word} {s t : State} (h : execute w s = .next t) : t.replies = s.replies := by
  obtain ⟨u, hu, -, hreplies⟩ := execute_keeps_queue w s
  cases hu.symm.trans h
  exact hreplies

/-- No register shows the replies or WORK (R30, R53). -/
theorem readRegister_replied (r : Register) (t : State) (reply : Reply) :
    readRegister r (replied t reply) = readRegister r t := by
  cases r <;> rfl

/-- Settles O53: the write leaves the state that Execute gave, with the read as its oldest event and the write's reply. -/
theorem readAfterCommandSeesItsResults : Obligations.ReadAfterCommandSeesItsResults := by
  intro s t w r rest h
  have hwrite := step_facing_write_offset s .cmd w (.access (.read r.offset .word) :: rest)
  rw [writeRegister, execute_withPending, h, onNext_next, onNext_next] at hwrite
  refine ⟨_, _, hwrite, step_facing_read_offset (replied t ⟨.okay, none⟩) r rest, ?_⟩
  rw [readRegister_replied, ← execute_replies h]

end Sys2Proof.Machine
end
